-- ==== Sys2Proof/Word.lean ====
section
/-! DEFINITION. Word.lean: the bit-vector types of the CANNET frame engine (CFE), by the widths that
spec/00_scope.md rules R7 and R10 fix. Bit 0 is the least significant bit (R10). -/

namespace Sys2Proof

/-- A 32-bit register or command word (R7). -/
abbrev Word := BitVec 32

/-- A 16-bit count: transfer size, CRC, capacity (R7). -/
abbrev Half := BitVec 16

/-- One byte of XBUF, of a chain or of a CAN payload. -/
abbrev Byte := BitVec 8

/-- A 14-bit CANNET bus address (R7, R9). -/
abbrev BusAddr := BitVec 14

/-- A 29-bit extended CAN identifier (R7, R76). -/
abbrev CanId := BitVec 29

/-- A 3-bit port number (R7). -/
abbrev Port := BitVec 3

/-- A 2-bit sequence number (R7). -/
abbrev Seq := BitVec 2

end Sys2Proof
end

