-- ==== Sys2Proof/Config.lean ====
section
/-! DEFINITION. Config.lean: what is fixed for one block and what the spec leaves open. `Params` are the
open parameters of spec/00_scope.md R6 and spec/20_memory.md R48; the two opaque constants are the free draws of
spec/93_implementation_defined.md U1 and U5, of which nothing can be proved. -/

namespace Sys2Proof

/-- The open parameters of a block (R6, R48). A block keeps them for ever: no step changes them. -/
structure Params where
  /-- NSLOT: number of socket slots (R6). -/
  nslot : Nat
  /-- NCHUNK: number of 32-byte chunks in the shared pool (R6). -/
  nchunk : Nat
  /-- EVQ_DEPTH: number of entries of the event FIFO (R6). -/
  evqDepth : Nat
  /-- CFE_BASE: where the platform puts the register window (R48). -/
  base : Nat
  deriving DecidableEq, Repr

/-- The legal ranges of the parameters: R6's table, and R48's "a multiple of 0x200". -/
abbrev Params.Legal (p : Params) : Prop :=
  (1 ≤ p.nslot ∧ p.nslot ≤ 8) ∧ (1 ≤ p.nchunk ∧ p.nchunk ≤ 65535) ∧
    (1 ≤ p.evqDepth ∧ p.evqDepth ≤ 255) ∧ p.base % 0x200 = 0

/-- The defaults of R6. R48 gives CFE_BASE no default: 0 is a DESIGN CHOICE (log entry 1). -/
def Params.default : Params := { nslot := 8, nchunk := 64, evqDepth := 16, base := 0 }

/-- FREE VALUE (R29, U1; log entry 2). What byte `k` of XBUF holds after the `epoch`-th reset, until it is
written: any value, one draw a byte, stable until written. It has no body: nothing is known of it. -/
opaque Config.xbufDraw (epoch k : Nat) : Byte

/-- FREE VALUE (R153, U5; log entry 3). Whether the TX port accepts the `n`-th frame offered to it, where
the state lists no answer of the environment's. It has no body: nothing is known of it. -/
opaque Config.txDraw (n : Nat) : Bool

end Sys2Proof
end

