-- ==== Sys2Proof/Syntax.lean ====
section
/-! DEFINITION. Syntax.lean: the commands of the CFE, one constructor for each row of
spec/opcode_table.json (spec/30_encoding.md R68), with the fields R71 writes. A command that takes no field in its word
takes its operands from ARG0, ARG1 and XBUF. -/

namespace Sys2Proof

/-- The eight frame types (R74). Every 3-bit code is one of them (R75). -/
inductive FrameType
  | first | next | last | single | connect | disconnect | stat | ack
  deriving DecidableEq, Repr

/-- PROTO (R32): 0 = DGRAM, 1 = STREAM. -/
inductive Proto
  | dgram | stream
  deriving DecidableEq, Repr

/-- The commands (R68), in the table's order. Field widths are the word's (R62 to R65). ROLE stays the 3-bit
field: its codes 0, 6 and 7 decode and are refused with BADARG by the command's own rule (R70). -/
inductive Instr
  | nop
  | hdrPack (ty : FrameType) (port : Port) (seq : Seq)
  | hdrUnpack (byte : Byte)
  | idPack
  | idUnpack
  | idMatch
  | crcInit
  | crcUpdate (len : Half)
  | bufInit (ch : BitVec 4) (maxcap : Half)
  | bufWrite (ch : BitVec 4) (len : Half)
  | bufRead (ch : BitVec 4) (len : Half)
  | bufMove (dst src : BitVec 4)
  | bufClear (ch : BitVec 4)
  | bufIsfull (ch : BitVec 4)
  | bufAvail (ch : BitVec 4)
  | bufSize (ch : BitVec 4)
  | slotSet (slot : BitVec 4) (role : BitVec 3) (proto : Proto) (port : Port)
  | slotFree (slot : BitVec 4)
  | slotGet (slot : BitVec 4)
  | ifUp
  | ifDown
  | cntClear
  | txSend (ty : FrameType) (port : Port) (seq : Seq) (len : BitVec 4)
  | evPop
  deriving DecidableEq, Repr

/-- The mnemonics of R68: the rows of the opcode table. -/
inductive Mnemonic
  | NOP | HDR_PACK | HDR_UNPACK | ID_PACK | ID_UNPACK | ID_MATCH | CRC_INIT | CRC_UPDATE
  | BUF_INIT | BUF_WRITE | BUF_READ | BUF_MOVE | BUF_CLEAR | BUF_ISFULL | BUF_AVAIL | BUF_SIZE
  | SLOT_SET | SLOT_FREE | SLOT_GET | IF_UP | IF_DOWN | CNT_CLEAR | TX_SEND | EV_POP
  deriving DecidableEq, Repr

/-- The row a command belongs to. -/
def Instr.mnemonic : Instr → Mnemonic
  | .nop => .NOP
  | .hdrPack .. => .HDR_PACK
  | .hdrUnpack .. => .HDR_UNPACK
  | .idPack => .ID_PACK
  | .idUnpack => .ID_UNPACK
  | .idMatch => .ID_MATCH
  | .crcInit => .CRC_INIT
  | .crcUpdate .. => .CRC_UPDATE
  | .bufInit .. => .BUF_INIT
  | .bufWrite .. => .BUF_WRITE
  | .bufRead .. => .BUF_READ
  | .bufMove .. => .BUF_MOVE
  | .bufClear .. => .BUF_CLEAR
  | .bufIsfull .. => .BUF_ISFULL
  | .bufAvail .. => .BUF_AVAIL
  | .bufSize .. => .BUF_SIZE
  | .slotSet .. => .SLOT_SET
  | .slotFree .. => .SLOT_FREE
  | .slotGet .. => .SLOT_GET
  | .ifUp => .IF_UP
  | .ifDown => .IF_DOWN
  | .cntClear => .CNT_CLEAR
  | .txSend .. => .TX_SEND
  | .evPop => .EV_POP

end Sys2Proof
end

