-- ==== Sys2Proof/WellFormed.lean ====
section
/-! DEFINITION. WellFormed.lean: which written commands are well formed. The fields of `Instr` have exactly the
widths of the word's fields, so every `Instr` has an encoding. What can be ill formed is a command as R71 writes it
(a mnemonic and a list of numbers: `Written`), and a command whose fields R70 puts out of range for the block's
parameters (`Instr.inRange`). -/

namespace Sys2Proof

/-- A command as R71 writes it: its mnemonic and its fields as numbers, in R71's order. -/
structure Written where
  mnemonic : Mnemonic
  fields : List Nat
  deriving DecidableEq, Repr

/-- The widths of the fields R71 writes for each mnemonic, in its order (R62 to R65). -/
def fieldWidths : Mnemonic → List Nat
  | .HDR_PACK => [3, 3, 2]
  | .HDR_UNPACK => [8]
  | .CRC_UPDATE => [16]
  | .BUF_INIT => [4, 16]
  | .BUF_WRITE => [4, 16]
  | .BUF_READ => [4, 16]
  | .BUF_MOVE => [4, 4]
  | .BUF_CLEAR => [4]
  | .BUF_ISFULL => [4]
  | .BUF_AVAIL => [4]
  | .BUF_SIZE => [4]
  | .SLOT_SET => [4, 3, 1, 3]
  | .SLOT_FREE => [4]
  | .SLOT_GET => [4]
  | .TX_SEND => [3, 3, 2, 4]
  | .NOP => []
  | .ID_PACK => []
  | .ID_UNPACK => []
  | .ID_MATCH => []
  | .CRC_INIT => []
  | .IF_UP => []
  | .IF_DOWN => []
  | .CNT_CLEAR => []
  | .EV_POP => []

/-- The fields fit their widths, one field for each width. -/
def fieldsFit : List Nat → List Nat → Bool
  | [], [] => true
  | w :: ws, f :: fs => decide (f < 2 ^ w) && fieldsFit ws fs
  | _ :: _, [] => false
  | [], _ :: _ => false

/-- R71: the assembler takes exactly the form's fields and "fails on a field that does not fit its width". -/
def Written.wellFormed (c : Written) : Bool := fieldsFit (fieldWidths c.mnemonic) c.fields

/-- R70, R112: the command's fields are in the range its own rule allows on a block with parameters `p`: CH and CH2
below NCHAIN, SLOT below NSLOT, ROLE in 1..5, LEN at most 7, and BUF_MOVE's two chains different. A command that
is not in range is still a command: it decodes, and fails with BADARG. -/
def Instr.inRange (p : Params) : Instr → Bool
  | .bufInit ch _ => decide (ch.toNat < 2 * p.nslot)
  | .bufWrite ch _ => decide (ch.toNat < 2 * p.nslot)
  | .bufRead ch _ => decide (ch.toNat < 2 * p.nslot)
  | .bufMove d s => decide (d.toNat < 2 * p.nslot) && decide (s.toNat < 2 * p.nslot) && decide (d ≠ s)
  | .bufClear ch => decide (ch.toNat < 2 * p.nslot)
  | .bufIsfull ch => decide (ch.toNat < 2 * p.nslot)
  | .bufAvail ch => decide (ch.toNat < 2 * p.nslot)
  | .bufSize ch => decide (ch.toNat < 2 * p.nslot)
  | .slotSet i role _ _ => decide (i.toNat < p.nslot) && decide (1 ≤ role.toNat ∧ role.toNat ≤ 5)
  | .slotFree i => decide (i.toNat < p.nslot)
  | .slotGet i => decide (i.toNat < p.nslot)
  | .txSend _ _ _ len => decide (len.toNat ≤ 7)
  | .nop => true
  | .hdrPack .. => true
  | .hdrUnpack .. => true
  | .idPack => true
  | .idUnpack => true
  | .idMatch => true
  | .crcInit => true
  | .crcUpdate .. => true
  | .ifUp => true
  | .ifDown => true
  | .cntClear => true
  | .evPop => true

end Sys2Proof
end

