-- ==== Sys2Proof/Decode.lean ====
section
/-! DEFINITION. Decode.lean: the decoder of command words, total on every 32-bit word and rejecting by name (R67,
R69), and the encoder beside it, both written from the formats R61 to R65 and the opcode map R68. -/

namespace Sys2Proof

/-- Bits `lo + n - 1` to `lo` of a word (R10's `v[hi:lo]`). -/
abbrev bitsOf (w : Word) (lo n : Nat) : BitVec n := w.extractLsb' lo n

/-- The TYPE code of a frame type (R74). -/
def frameTypeCode : FrameType → BitVec 3
  | .first => 0
  | .next => 1
  | .last => 2
  | .single => 3
  | .connect => 4
  | .disconnect => 5
  | .stat => 6
  | .ack => 7

/-- The frame type of a TYPE code: no code is reserved (R74, R75). -/
def frameTypeOf (c : BitVec 3) : FrameType :=
  match c.toNat with
  | 0 => .first
  | 1 => .next
  | 2 => .last
  | 3 => .single
  | 4 => .connect
  | 5 => .disconnect
  | 6 => .stat
  | _ => .ack

/-- The PROTO bit (R32). -/
def protoCode : Proto → BitVec 1
  | .dgram => 0
  | .stream => 1

/-- The protocol of a PROTO bit (R32). -/
def protoOf (b : BitVec 1) : Proto := if b = 1 then .stream else .dgram

/-- The opcode column of R68. -/
def opcode : Mnemonic → BitVec 8
  | .NOP => 0x00
  | .HDR_PACK => 0x01
  | .HDR_UNPACK => 0x02
  | .ID_PACK => 0x03
  | .ID_UNPACK => 0x04
  | .ID_MATCH => 0x05
  | .CRC_INIT => 0x08
  | .CRC_UPDATE => 0x09
  | .BUF_INIT => 0x10
  | .BUF_WRITE => 0x11
  | .BUF_READ => 0x12
  | .BUF_MOVE => 0x13
  | .BUF_CLEAR => 0x14
  | .BUF_ISFULL => 0x15
  | .BUF_AVAIL => 0x16
  | .BUF_SIZE => 0x17
  | .SLOT_SET => 0x20
  | .SLOT_FREE => 0x21
  | .SLOT_GET => 0x22
  | .IF_UP => 0x30
  | .IF_DOWN => 0x31
  | .CNT_CLEAR => 0x32
  | .TX_SEND => 0x38
  | .EV_POP => 0x3C

/-- The row an opcode selects (R60, R68); the other opcodes are reserved (R69). -/
def mnemonicAt (opc : BitVec 8) : Option Mnemonic :=
  match opc.toNat with
  | 0x00 => some .NOP
  | 0x01 => some .HDR_PACK
  | 0x02 => some .HDR_UNPACK
  | 0x03 => some .ID_PACK
  | 0x04 => some .ID_UNPACK
  | 0x05 => some .ID_MATCH
  | 0x08 => some .CRC_INIT
  | 0x09 => some .CRC_UPDATE
  | 0x10 => some .BUF_INIT
  | 0x11 => some .BUF_WRITE
  | 0x12 => some .BUF_READ
  | 0x13 => some .BUF_MOVE
  | 0x14 => some .BUF_CLEAR
  | 0x15 => some .BUF_ISFULL
  | 0x16 => some .BUF_AVAIL
  | 0x17 => some .BUF_SIZE
  | 0x20 => some .SLOT_SET
  | 0x21 => some .SLOT_FREE
  | 0x22 => some .SLOT_GET
  | 0x30 => some .IF_UP
  | 0x31 => some .IF_DOWN
  | 0x32 => some .CNT_CLEAR
  | 0x38 => some .TX_SEND
  | 0x3C => some .EV_POP
  | _ => none

/-- The `match` column of R68. -/
def rowMatch (m : Mnemonic) : Word := (opcode m).setWidth 32 <<< 24

/-- The `mask` column of R68: the opcode and the bits the format and the row require to be zero. -/
def rowMask : Mnemonic → Word
  | .NOP => 0xFFFFFFFF
  | .HDR_PACK => 0xFF00FFFF
  | .HDR_UNPACK => 0xFFFFFF00
  | .ID_PACK => 0xFFFFFFFF
  | .ID_UNPACK => 0xFFFFFFFF
  | .ID_MATCH => 0xFFFFFFFF
  | .CRC_INIT => 0xFFFFFFFF
  | .CRC_UPDATE => 0xFFFF0000
  | .BUF_INIT => 0xFF0F0000
  | .BUF_WRITE => 0xFF0F0000
  | .BUF_READ => 0xFF0F0000
  | .BUF_MOVE => 0xFF00FFFF
  | .BUF_CLEAR => 0xFF0FFFFF
  | .BUF_ISFULL => 0xFF0FFFFF
  | .BUF_AVAIL => 0xFF0FFFFF
  | .BUF_SIZE => 0xFF0FFFFF
  | .SLOT_SET => 0xFF08FEF8
  | .SLOT_FREE => 0xFF0FFFFF
  | .SLOT_GET => 0xFF0FFFFF
  | .IF_UP => 0xFFFFFFFF
  | .IF_DOWN => 0xFFFFFFFF
  | .CNT_CLEAR => 0xFFFFFFFF
  | .TX_SEND => 0xFF00FFF0
  | .EV_POP => 0xFFFFFFFF

/-- The command of a row, its fields taken from the word where the row's format puts them (R61 to R65). -/
def readFields (m : Mnemonic) (w : Word) : Instr :=
  match m with
  | .NOP => .nop
  | .HDR_PACK => .hdrPack (frameTypeOf (bitsOf w 21 3)) (bitsOf w 18 3) (bitsOf w 16 2)
  | .HDR_UNPACK => .hdrUnpack (bitsOf w 0 8)
  | .ID_PACK => .idPack
  | .ID_UNPACK => .idUnpack
  | .ID_MATCH => .idMatch
  | .CRC_INIT => .crcInit
  | .CRC_UPDATE => .crcUpdate (bitsOf w 0 16)
  | .BUF_INIT => .bufInit (bitsOf w 20 4) (bitsOf w 0 16)
  | .BUF_WRITE => .bufWrite (bitsOf w 20 4) (bitsOf w 0 16)
  | .BUF_READ => .bufRead (bitsOf w 20 4) (bitsOf w 0 16)
  | .BUF_MOVE => .bufMove (bitsOf w 20 4) (bitsOf w 16 4)
  | .BUF_CLEAR => .bufClear (bitsOf w 20 4)
  | .BUF_ISFULL => .bufIsfull (bitsOf w 20 4)
  | .BUF_AVAIL => .bufAvail (bitsOf w 20 4)
  | .BUF_SIZE => .bufSize (bitsOf w 20 4)
  | .SLOT_SET => .slotSet (bitsOf w 20 4) (bitsOf w 16 3) (protoOf (bitsOf w 8 1)) (bitsOf w 0 3)
  | .SLOT_FREE => .slotFree (bitsOf w 20 4)
  | .SLOT_GET => .slotGet (bitsOf w 20 4)
  | .IF_UP => .ifUp
  | .IF_DOWN => .ifDown
  | .CNT_CLEAR => .cntClear
  | .TX_SEND => .txSend (frameTypeOf (bitsOf w 21 3)) (bitsOf w 18 3) (bitsOf w 16 2) (bitsOf w 0 4)
  | .EV_POP => .evPop

/-- What decoding a command word gives (R67): the command, or why the word is none, by name. -/
inductive Decoded
  /-- The word is a command. -/
  | command (i : Instr)
  /-- No row has this opcode (R67 (1), R69). -/
  | reservedOpcode (opc : BitVec 8)
  /-- A bit the row requires to be zero is 1 (R67 (2)). -/
  | nonzeroReservedBits (m : Mnemonic)
  deriving DecidableEq, Repr

/-- The decoder (R67): the opcode selects the row, then `(w & mask) = match` is asked of the row. -/
def decode (w : Word) : Decoded :=
  match mnemonicAt (bitsOf w 24 8) with
  | none => .reservedOpcode (bitsOf w 24 8)
  | some m => if w &&& rowMask m = rowMatch m then .command (readFields m w) else .nonzeroReservedBits m

/-- Format F0 (R61). -/
def formatF0 (m : Mnemonic) : Word := opcode m ++ 0#24

/-- Format FH (R62): TYPE, PORT, SEQ, twelve zero bits, LEN. -/
def formatFH (m : Mnemonic) (ty : FrameType) (port : Port) (seq : Seq) (len : BitVec 4) : Word :=
  opcode m ++ frameTypeCode ty ++ port ++ seq ++ 0#12 ++ len

/-- Format FI (R63): eight zero bits, IMM16. -/
def formatFI (m : Mnemonic) (imm : Half) : Word := opcode m ++ 0#8 ++ imm

/-- Format FB (R64): CH, CH2, IMM16. -/
def formatFB (m : Mnemonic) (ch ch2 : BitVec 4) (imm : Half) : Word := opcode m ++ ch ++ ch2 ++ imm

/-- Format FS (R65): SLOT, 0, ROLE, seven zero bits, PROTO, five zero bits, PORT. -/
def formatFS (m : Mnemonic) (slot : BitVec 4) (role : BitVec 3) (proto : Proto) (port : Port) : Word :=
  opcode m ++ slot ++ 0#1 ++ role ++ 0#7 ++ protoCode proto ++ 0#5 ++ port

/-- The encoder: each command's word in its row's format, the fields the row does not use zero (R68). -/
def encode (i : Instr) : Word :=
  match i with
  | .nop => formatF0 .NOP
  | .hdrPack ty port seq => formatFH .HDR_PACK ty port seq 0#4
  | .hdrUnpack b => formatFI .HDR_UNPACK (b.setWidth 16)
  | .idPack => formatF0 .ID_PACK
  | .idUnpack => formatF0 .ID_UNPACK
  | .idMatch => formatF0 .ID_MATCH
  | .crcInit => formatF0 .CRC_INIT
  | .crcUpdate len => formatFI .CRC_UPDATE len
  | .bufInit ch cap => formatFB .BUF_INIT ch 0#4 cap
  | .bufWrite ch len => formatFB .BUF_WRITE ch 0#4 len
  | .bufRead ch len => formatFB .BUF_READ ch 0#4 len
  | .bufMove dst src => formatFB .BUF_MOVE dst src 0#16
  | .bufClear ch => formatFB .BUF_CLEAR ch 0#4 0#16
  | .bufIsfull ch => formatFB .BUF_ISFULL ch 0#4 0#16
  | .bufAvail ch => formatFB .BUF_AVAIL ch 0#4 0#16
  | .bufSize ch => formatFB .BUF_SIZE ch 0#4 0#16
  | .slotSet slot role proto port => formatFS .SLOT_SET slot role proto port
  | .slotFree slot => formatFS .SLOT_FREE slot 0#3 .dgram 0#3
  | .slotGet slot => formatFS .SLOT_GET slot 0#3 .dgram 0#3
  | .ifUp => formatF0 .IF_UP
  | .ifDown => formatF0 .IF_DOWN
  | .cntClear => formatF0 .CNT_CLEAR
  | .txSend ty port seq len => formatFH .TX_SEND ty port seq len
  | .evPop => formatF0 .EV_POP

/-- A command as R71 writes it: the mnemonic and the fields, in R71's order. -/
def written (i : Instr) : Written :=
  { mnemonic := i.mnemonic
    fields :=
      match i with
      | .hdrPack ty port seq => [(frameTypeCode ty).toNat, port.toNat, seq.toNat]
      | .hdrUnpack b => [b.toNat]
      | .crcUpdate len => [len.toNat]
      | .bufInit ch cap => [ch.toNat, cap.toNat]
      | .bufWrite ch len => [ch.toNat, len.toNat]
      | .bufRead ch len => [ch.toNat, len.toNat]
      | .bufMove dst src => [dst.toNat, src.toNat]
      | .bufClear ch => [ch.toNat]
      | .bufIsfull ch => [ch.toNat]
      | .bufAvail ch => [ch.toNat]
      | .bufSize ch => [ch.toNat]
      | .slotSet slot role proto port => [slot.toNat, role.toNat, (protoCode proto).toNat, port.toNat]
      | .slotFree slot => [slot.toNat]
      | .slotGet slot => [slot.toNat]
      | .txSend ty port seq len => [(frameTypeCode ty).toNat, port.toNat, seq.toNat, len.toNat]
      | .nop => []
      | .idPack => []
      | .idUnpack => []
      | .idMatch => []
      | .crcInit => []
      | .ifUp => []
      | .ifDown => []
      | .cntClear => []
      | .evPop => [] }

/-- The command of a mnemonic and fields that fit (R71); `k`-th field read as a number of `n` bits. -/
def fieldsCommand (m : Mnemonic) (fs : List Nat) : Instr :=
  let at_ (k n : Nat) : BitVec n := BitVec.ofNat n (fs.getD k 0)
  match m with
  | .NOP => .nop
  | .HDR_PACK => .hdrPack (frameTypeOf (at_ 0 3)) (at_ 1 3) (at_ 2 2)
  | .HDR_UNPACK => .hdrUnpack (at_ 0 8)
  | .ID_PACK => .idPack
  | .ID_UNPACK => .idUnpack
  | .ID_MATCH => .idMatch
  | .CRC_INIT => .crcInit
  | .CRC_UPDATE => .crcUpdate (at_ 0 16)
  | .BUF_INIT => .bufInit (at_ 0 4) (at_ 1 16)
  | .BUF_WRITE => .bufWrite (at_ 0 4) (at_ 1 16)
  | .BUF_READ => .bufRead (at_ 0 4) (at_ 1 16)
  | .BUF_MOVE => .bufMove (at_ 0 4) (at_ 1 4)
  | .BUF_CLEAR => .bufClear (at_ 0 4)
  | .BUF_ISFULL => .bufIsfull (at_ 0 4)
  | .BUF_AVAIL => .bufAvail (at_ 0 4)
  | .BUF_SIZE => .bufSize (at_ 0 4)
  | .SLOT_SET => .slotSet (at_ 0 4) (at_ 1 3) (protoOf (at_ 2 1)) (at_ 3 3)
  | .SLOT_FREE => .slotFree (at_ 0 4)
  | .SLOT_GET => .slotGet (at_ 0 4)
  | .IF_UP => .ifUp
  | .IF_DOWN => .ifDown
  | .CNT_CLEAR => .cntClear
  | .TX_SEND => .txSend (frameTypeOf (at_ 0 3)) (at_ 1 3) (at_ 2 2) (at_ 3 4)
  | .EV_POP => .evPop

/-- The assembler (R71): the command a written one stands for; it "fails on a field that does not fit its width",
and on a wrong number of fields. -/
def assemble (c : Written) : Option Instr :=
  if c.wellFormed then some (fieldsCommand c.mnemonic c.fields) else none

/-- What the decoder reads from a word numbered as the opcode table numbers it. A command is ONE 32-bit word
(R59), written whole in one host step, so bit 0 of the table is bit 0 of the word; a number with a bit above 31 is
no command word. -/
def decodeTableWord (_nbits w : Nat) : Option Instr :=
  if w < 2 ^ 32 then
    match decode (BitVec.ofNat 32 w) with
    | .command i => some i
    | .reservedOpcode _ => none
    | .nonzeroReservedBits _ => none
  else none

end Sys2Proof
end

