-- ==== Sys2Proof/Machine/State.lean ====
section
/-! DEFINITION. Machine/State.lean: every piece of state the spec gives the CFE (spec/10_state.md R17 to R41,
spec/70_reset_and_hazards.md R181), the scheduled steps of its three agents (R15), the reasons a step can stop, and
the state after power-on. -/

namespace Sys2Proof.Machine

/-- STATUS.ERR: the result codes of R164. Codes 9 to 15 are never produced, so they are no constructor. -/
inductive ErrCode
  | ok | badcmd | badarg | full | nomem | notup | ioerr | portbusy | busy
  deriving DecidableEq, Repr

/-- ROLE of a slot (R33). Codes 6 and 7 are reserved and never held, so they are no constructor. -/
inductive Role
  | free | bound | listen | connecting | connected | closed
  deriving DecidableEq, Repr

/-- The kinds of event (R23). NONE and the codes 9 to 15 are never posted, so they are no constructor. -/
inductive EventKind
  | xferOk | xferFail | connectReq | connectResp | disconnect | statReq | statResp | ack
  deriving DecidableEq, Repr

/-- One entry of the event FIFO (R39). -/
structure Event where
  kind : EventKind
  slot : BitVec 4
  port : Port
  seq : Seq
  src : BusAddr
  value : Half
  flags : Byte
  deriving DecidableEq, Repr

/-- A CAN frame at either port (R40). `data` holds min(DLC, 8) bytes, data[0] first on the wire (R11). -/
structure Frame where
  id : CanId
  ide : Bool
  rtr : Bool
  dlc : BitVec 4
  data : List Byte
  deriving DecidableEq, Repr

/-- A chunk of chain storage (R36). `data` holds the bytes written so far, so FILL is its length (at most 32);
what the rest of the 32 bytes of DATA hold is never observable (U2). `seek` is SEEK: the bytes already read. -/
structure Chunk where
  data : List Byte
  seek : Nat
  deriving DecidableEq, Repr

/-- A buffer chain (R35): MAXCAP, and CHUNKS with the oldest first. -/
structure Chain where
  maxcap : Half
  chunks : List Chunk
  deriving DecidableEq, Repr

/-- A chain after reset (R35, R181). -/
def Chain.reset : Chain := { maxcap := 0, chunks := [] }

/-- One slot of the socket slot table (R32). -/
structure Slot where
  role : Role
  proto : Proto
  port : Port
  remote : BusAddr
  rxSeq : Seq
  asmActive : Bool
  asmErr : Bool
  asmSeq : Seq
  asmSrc : BusAddr
  asmSize : Half
  asmCrcExp : Half
  asmCrc : Half
  deriving DecidableEq, Repr

/-- A slot after reset (R32, R181). -/
def Slot.reset : Slot :=
  { role := .free, proto := .dgram, port := 0, remote := 0, rxSeq := 0, asmActive := false, asmErr := false,
    asmSeq := 0, asmSrc := 0, asmSize := 0, asmCrcExp := 0, asmCrc := 0xFFFF }

/-- XBUF (R29): its written bytes, by increasing byte number. A byte not listed has not been written since reset:
it has no value here, and reads as the free draw of U1 (log entry 2). -/
abbrev Memory := List Host.Cell

/-- One step of one agent (R15), and the reset input of R180. `addr` is an absolute address of the host's
(R48), `width` the access width in bytes (R47). -/
inductive Turn
  /-- The host reads `width` bytes at `addr`. -/
  | read (width addr : Nat)
  /-- The host writes `value` (its low `width` bytes) at `addr`; a write of CMD runs a command (R19). -/
  | write (width addr : Nat) (value : Word)
  /-- The dispatcher is scheduled (R127, R128). -/
  | dispatcher
  /-- The environment offers a frame at the RX port (R152). -/
  | rxFrame (f : Frame)
  /-- The environment signals an RX device error (R154). -/
  | rxError
  /-- The platform asserts reset (R180). -/
  | blockReset
  deriving DecidableEq, Repr

/-- The state of the machine: the block's own (R17 to R39), the environment's two frame sequences (R41), and
what the model adds so that one deterministic step can be taken (the last five fields; log entries 2 to 5). -/
structure State where
  /-- NSLOT, NCHUNK, EVQ_DEPTH and CFE_BASE (R6, R48): constants of the block. -/
  params : Params
  /-- LASTCMD, the last word written to CMD (R19). -/
  lastcmd : Word
  arg0 : Word
  arg1 : Word
  res0 : Word
  res1 : Word
  /-- STATUS.ERR (R20, R164). -/
  err : ErrCode
  /-- STATUS.RUN (R20). -/
  run : Bool
  /-- STATUS.RXERR (R20). -/
  rxerr : Bool
  /-- STATUS.OWNADDR (R20). -/
  ownaddr : BusAddr
  /-- CRCACC[15:0] (R21). -/
  crcacc : Half
  ev0 : Word
  ev1 : Word
  rxframes : Word
  rxbytes : Word
  txframes : Word
  txbytes : Word
  rxdrop : Word
  /-- IRQEN[0] (R28). -/
  evie : Bool
  /-- IRQEN[1] (R28). -/
  errie : Bool
  /-- XBUF (R29). -/
  xbuf : Memory
  /-- SLOT[0..NSLOT) (R32). -/
  slots : List Slot
  /-- CH[0..NCHAIN) (R35). -/
  chains : List Chain
  /-- The event FIFO, oldest first (R39). -/
  events : List Event
  /-- RXIN (R41). -/
  rxin : List Frame
  /-- TXOUT (R41). -/
  txout : List Frame
  /-- MODEL'S OWN (log entry 4): the agents' steps to come, next first. -/
  agenda : List Turn
  /-- MODEL'S OWN (log entry 5): what the last host read returned; `none` before the first. -/
  readData : Option Word
  /-- MODEL'S OWN (log entry 3): the environment's answers to the frames offered next. -/
  txAnswers : List Bool
  /-- MODEL'S OWN (log entry 3): how many frames have been offered to the TX port. -/
  emits : Nat
  /-- MODEL'S OWN (log entry 2): how many times the block has been reset since power-on. -/
  resets : Nat
  deriving DecidableEq, Repr

/-- Why the machine stops with a fault. -/
inductive Fault
  /-- Raised by a host access that reaches the block and is not an aligned 32-bit access of its window (R47, R168:
  "the model ends the run with a fault outcome"). SAFE: the spec asks for it, and no claim is made of a later state. -/
  | busError
  deriving DecidableEq, Repr

/-- Why the model has no meaning for a step. -/
inductive Refusal
  /-- Raised by exec's arm of a command that has no meaning yet. SAFE. Every command has one: it is never raised. -/
  | notModelled (mnemonic : String)
  deriving DecidableEq, Repr

/-- What a step answers. -/
abbrev Result := Host.Outcome State Fault Refusal

/-- The state at power-on of a block with parameters `p`: R181, every row. -/
def State.powerOn (p : Params) : State :=
  { params := p
    lastcmd := 0, arg0 := 0, arg1 := 0, res0 := 0, res1 := 0
    err := .ok, run := false, rxerr := false, ownaddr := 0
    crcacc := 0xFFFF
    ev0 := 0, ev1 := 0
    rxframes := 0, rxbytes := 0, txframes := 0, txbytes := 0, rxdrop := 0
    evie := false, errie := false
    xbuf := []
    slots := List.replicate p.nslot Slot.reset
    chains := List.replicate (2 * p.nslot) Chain.reset
    events := []
    rxin := [], txout := []
    agenda := [], readData := none, txAnswers := [], emits := 0, resets := 0 }

/-- The machine right after reset: power-on with the default parameters of R6. -/
def State.reset : State := State.powerOn Params.default

end Sys2Proof.Machine
end

