-- ==== Sys2Proof/Machine/Ops.lean ====
section
/-! DEFINITION. Machine/Ops.lean: the named operations over the state that every rule is written in: ending a
command (`done` and `fail`, the CFE's whole exception model: R12, R163, R167), XBUF reads and writes (R12 XRead and
XWrite, R46), the accessors of slots, chains and result registers, the counters of `take` and `drop` (R12), posting
an event (R12), the TX port's answer (R153) and the block's reset (R180, R181). -/

namespace Sys2Proof.Machine

/-! ### Ending a command -/

/-- `fail E` (R12, R167): the command ends, STATUS.ERR gets E, and no other state changes. This is what the CFE does
where a processor would take an exception (R163). -/
def fail (e : ErrCode) (s : State) : State := { s with err := e }

/-- `done` (R12): the command ends with STATUS.ERR = OK and its writes are committed. -/
def done (s : State) : State := { s with err := .ok }

/-! ### Result registers -/

/-- RES0 ← v (R17). -/
def setRes0 (v : Word) (s : State) : State := { s with res0 := v }

/-- RES1 ← v (R17). -/
def setRes1 (v : Word) (s : State) : State := { s with res1 := v }

/-- RES0 ← zext_32(n) of a count that fits (R10). -/
def setRes0Nat (n : Nat) (s : State) : State := setRes0 (BitVec.ofNat 32 n) s

/-- RES1 ← zext_32(n) of a count that fits (R10). -/
def setRes1Nat (n : Nat) (s : State) : State := setRes1 (BitVec.ofNat 32 n) s

/-! ### XBUF -/

/-- How many bytes XBUF has (R7, R44). -/
def xbufSize : Nat := 256

/-- The byte written at `a`, if one has been. -/
def Memory.get : Memory → Nat → Option Byte
  | [], _ => none
  | (k, v) :: m, a => if k = a then some v else Memory.get m a

/-- Writing byte `v` at `a`, keeping the list's order. -/
def Memory.set : Memory → Nat → Byte → Memory
  | [], a, v => [(a, v)]
  | (k, u) :: m, a, v =>
      if a < k then (a, v) :: (k, u) :: m
      else if k = a then (a, v) :: m
      else (k, u) :: Memory.set m a v

/-- The canonical form of XBUF: byte numbers strictly rising and below 256. An unlisted byte has no value, so no
entry equals what an unlisted byte holds, and equal contents are equal lists (log entry 2). -/
def Memory.wf (m : Memory) : Bool :=
  decide (m.Pairwise (fun x y => x.1 < y.1)) && m.all (fun x => decide (x.1 < xbufSize))

/-- XRead(k) (R12): byte k of XBUF; a byte not written since reset holds the free draw of U1 (log entry 2). -/
def xread (s : State) (k : Nat) : Byte := (Memory.get s.xbuf k).getD (Config.xbufDraw s.resets k)

/-- XWrite(k, b) (R12), 0 ≤ k < 256: XBUF has no other byte. -/
def xwrite (k : Nat) (b : Byte) (s : State) : State :=
  if k < xbufSize then { s with xbuf := Memory.set s.xbuf k b } else s

/-- [XRead(off), ..., XRead(off + n - 1)] (R102, R114). -/
def xreadRange (s : State) (off n : Nat) : List Byte := (List.range n).map (fun j => xread s (off + j))

/-- XWrite(off + k, r[k]) for every k (R115). -/
def xwriteRange (off : Nat) : List Byte → State → State
  | [], s => s
  | b :: r, s => xwriteRange (off + 1) r (xwrite off b s)

/-! ### Slots and chains -/

/-- SLOT[i] (R12, R32). The table has no slot past NSLOT; a read there gives a slot as reset leaves it (log entry 12:
no command or dispatcher step makes one). -/
def slotAt (s : State) (i : Nat) : Slot := s.slots.getD i Slot.reset

/-- SLOT[i] ← x. -/
def setSlot (i : Nat) (x : Slot) (s : State) : State := { s with slots := s.slots.set i x }

/-- CH[c] (R12, R35); past NCHAIN as for slots (log entry 12). -/
def chainAt (s : State) (c : Nat) : Chain := s.chains.getD c Chain.reset

/-- CH[c] ← x. -/
def setChain (c : Nat) (x : Chain) (s : State) : State := { s with chains := s.chains.set c x }

/-- NCHAIN (R8). -/
def nchain (s : State) : Nat := 2 * s.params.nslot

/-- The assembly chain of slot i (R8). -/
def asmChain (i : Nat) : Nat := 2 * i

/-- The ready chain of slot i (R8). -/
def readyChain (i : Nat) : Nat := 2 * i + 1

/-! ### Counters and events -/

/-- `drop` (R12): RXDROP counts the frame, and nothing else changes. -/
def drop (s : State) : State := { s with rxdrop := s.rxdrop + 1 }

/-- `take` (R12): the frame counts as handled, its DLC in RXBYTES. -/
def take (f : Frame) (s : State) : State :=
  { s with rxframes := s.rxframes + 1, rxbytes := s.rxbytes + f.dlc.setWidth 32 }

/-- `post(ev)` (R12, R39): append at the tail of the event FIFO. -/
def post (e : Event) (s : State) : State := { s with events := s.events ++ [e] }

/-! ### The TX port -/

/-- The environment's answer to the frame now offered to the TX port (R153): the next answer the state lists, else a
free draw (log entry 3). -/
def txAnswer (s : State) : Bool :=
  match s.txAnswers with
  | a :: _ => a
  | [] => Config.txDraw s.emits

/-- The answer has been used (log entry 3): environment bookkeeping, no state of the block. -/
def answerUsed (s : State) : State := { s with emits := s.emits + 1, txAnswers := s.txAnswers.tail }

/-! ### Reset -/

/-- The block's reset (R180, R181): every piece of block state gets its reset value. RXIN and TXOUT belong to the
environment and stay (R41); so do the parameters and what the model keeps for the agents. XBUF is any value anew:
the next epoch of draws (log entry 2). -/
def resetBlock (s : State) : State :=
  { State.powerOn s.params with
    rxin := s.rxin, txout := s.txout, agenda := s.agenda, readData := s.readData,
    txAnswers := s.txAnswers, emits := s.emits, resets := s.resets + 1 }

end Sys2Proof.Machine
end

