-- ==== Sys2Proof/Machine/Operands.lean ====
section
/-! DEFINITION. Machine/Operands.lean: the operand forms: numeric codes of roles, kinds and results (R23, R33, R164),
the header byte and the CAN identifier (R73, R76), the views of a received frame (R128), the XBUF range and the
chain and slot index checks (R50, R112). -/

namespace Sys2Proof.Machine

/-! ### Codes -/

/-- The codes of R164. -/
def errCode : ErrCode → BitVec 4
  | .ok => 0
  | .badcmd => 1
  | .badarg => 2
  | .full => 3
  | .nomem => 4
  | .notup => 5
  | .ioerr => 6
  | .portbusy => 7
  | .busy => 8

/-- The codes of R33. -/
def roleCode : Role → BitVec 3
  | .free => 0
  | .bound => 1
  | .listen => 2
  | .connecting => 3
  | .connected => 4
  | .closed => 5

/-- The role SLOT_SET may set for a ROLE field: 1 to 5 (R33, R124); FREE is set only by SLOT_FREE, 6 and 7 are
reserved. -/
def settableRole (c : BitVec 3) : Option Role :=
  match c.toNat with
  | 1 => some .bound
  | 2 => some .listen
  | 3 => some .connecting
  | 4 => some .connected
  | 5 => some .closed
  | _ => none

/-- The codes of R23. -/
def kindCode : EventKind → BitVec 4
  | .xferOk => 1
  | .xferFail => 2
  | .connectReq => 3
  | .connectResp => 4
  | .disconnect => 5
  | .statReq => 6
  | .statResp => 7
  | .ack => 8

/-- ROLE ∈ {BOUND, LISTEN} (R34 (a), R123). -/
def isListening : Role → Bool
  | .bound => true
  | .listen => true
  | .free => false
  | .connecting => false
  | .connected => false
  | .closed => false

/-- ROLE ∈ {CONNECTING, CONNECTED} (R34 (b), R123). -/
def isPeered : Role → Bool
  | .connecting => true
  | .connected => true
  | .free => false
  | .bound => false
  | .listen => false
  | .closed => false

/-- A flag as one bit of a 32-bit word. -/
def bit32 (b : Bool) : Word := (BitVec.ofBool b).setWidth 32

/-- ADDR_ANY (R9). -/
def addrAny : BusAddr := 0x0000

/-- ADDR_BCAST (R9). -/
def addrBcast : BusAddr := 0x3FFF

/-! ### The header byte and the identifier -/

/-- The header byte (R73): (type << 5) | (port << 2) | seq. -/
def headerByte (ty : FrameType) (port : Port) (seq : Seq) : Byte :=
  (frameTypeCode ty).setWidth 8 <<< 5 ||| port.setWidth 8 <<< 2 ||| seq.setWidth 8

/-- TYPE = hdr[7:5] (R73). -/
def headerType (h : Byte) : FrameType := frameTypeOf (h.extractLsb' 5 3)

/-- PORT = hdr[4:2] (R73). -/
def headerPort (h : Byte) : Port := h.extractLsb' 2 3

/-- SEQ = hdr[1:0] (R73). -/
def headerSeq (h : Byte) : Seq := h.extractLsb' 0 2

/-- The identifier of destination and source, RSV = 0 (R76, R78). -/
def packId (dst src : BusAddr) : CanId := dst.setWidth 29 <<< 14 ||| src.setWidth 29

/-- DST = id[27:14] (R76). -/
def idDst (id : CanId) : BusAddr := id.extractLsb' 14 14

/-- SRC = id[13:0] (R76). -/
def idSrc (id : CanId) : BusAddr := id.extractLsb' 0 14

/-- RSV = id[28] (R76). -/
def idRsv (id : CanId) : Bool := id.getLsbD 28

/-! ### The masks of the identifier (R77) -/

/-- DST_MASK (R77). -/
def dstMask : CanId := 0x0FFFC000

/-- SRC_MASK (R77). -/
def srcMask : CanId := 0x00003FFF

/-- RSV_MASK (R77). -/
def rsvMask : CanId := 0x10000000

/-! ### A frame as R128 reads it -/

/-- A frame record of R40: DATA has min(DLC, 8) bytes. -/
def Frame.wf (f : Frame) : Bool := decide (f.data.length = min f.dlc.toNat 8)

/-- The record a frame offered at the RX port stands for: its data cut, or filled with 0, to min(DLC, 8) bytes. A
record of R40 stands for itself (log entry 7). -/
def Frame.record (f : Frame) : Frame :=
  { f with data := (f.data ++ List.replicate 8 0).take (min f.dlc.toNat 8) }

/-- n = f.DLC (R128). -/
def frameLen (f : Frame) : Nat := f.dlc.toNat

/-- d[k] (R128); a byte past the data reads 0, and no rule reads one. -/
def frameByte (f : Frame) (k : Nat) : Byte := f.data.getD k 0

/-- d[k..n) (R128). -/
def framePayload (f : Frame) (k : Nat) : List Byte := (f.data.take (frameLen f)).drop k

/-- h = d[0] (R128). -/
def frameHdr (f : Frame) : Byte := frameByte f 0

/-- type = h[7:5] (R128). -/
def frameType (f : Frame) : FrameType := headerType (frameHdr f)

/-- port = h[4:2] (R128). -/
def framePort (f : Frame) : Port := headerPort (frameHdr f)

/-- seq = h[1:0] (R128). -/
def frameSeq (f : Frame) : Seq := headerSeq (frameHdr f)

/-- dst = f.ID[27:14] (R128). -/
def frameDst (f : Frame) : BusAddr := idDst f.id

/-- src = f.ID[13:0] (R128). -/
def frameSrc (f : Frame) : BusAddr := idSrc f.id

/-- fl = (n ≥ 2 ? d[1] : 0) (R82, R128). -/
def frameFlags (f : Frame) : Byte := if 2 ≤ frameLen f then frameByte f 1 else 0

/-- fl[0]: CONNECTED or SUCCESS (R82). -/
def flagConnected (fl : Byte) : Bool := fl.getLsbD 0

/-- fl[1]: RESPONSE (R82). -/
def flagResponse (fl : Byte) : Bool := fl.getLsbD 1

/-- A 16-bit field, low byte first (R46, R81, R85): d[k] | (d[k+1] << 8). -/
def frameHalf (f : Frame) (k : Nat) : Half :=
  (frameByte f k).setWidth 16 ||| (frameByte f (k + 1)).setWidth 16 <<< 8

/-! ### Range checks -/

/-- An XBUF range that passes byte 255 (R50): off + len > 256, computed without wrap-around. -/
def badRange (off len : Nat) : Bool := decide (xbufSize < off + len)

/-- A chain index that names no chain (R112). -/
def badChain (s : State) (c : Nat) : Bool := decide (nchain s ≤ c)

/-- A slot index that names no slot (R124 to R126). -/
def badSlot (s : State) (i : Nat) : Bool := decide (s.params.nslot ≤ i)

/-- The low 14 bits of a register (R91: "only bits 13:0 of each are used"). -/
def addrOf (w : Word) : BusAddr := w.extractLsb' 0 14

/-- A register value above 14 bits (R94, R124). -/
def above14 (w : Word) : Bool := decide (0x3FFF < w.toNat)

end Sys2Proof.Machine
end

