-- ==== Sys2Proof/Machine/Chain.lean ====
section
/-! DEFINITION. Machine/Chain.lean: the primitives of the buffer chains (R103 to R111): the commands of Machine/Buf.lean
and the dispatcher change chains only through them. -/

namespace Sys2Proof.Machine

/-- How many bytes a chunk holds (R7, R36). -/
def chunkSize : Nat := 32

/-- FILL of a chunk: bytes written (R36). -/
def fill (k : Chunk) : Nat := k.data.length

/-- The unread bytes k.DATA[k.SEEK..k.FILL) (R35). -/
def unread (k : Chunk) : List Byte := k.data.drop k.seek

/-- The bytes of a list of chunks, oldest first (R35). -/
def chunksBytes (ks : List Chunk) : List Byte := ks.flatMap unread

/-- The sum of k.FILL − k.SEEK (R35). -/
def chunksTotal (ks : List Chunk) : Nat := (ks.map (fun k => fill k - k.seek)).sum

/-- The bytes of chain c, oldest first (R35). -/
def chainBytes (s : State) (c : Nat) : List Byte := chunksBytes (chainAt s c).chunks

/-- total_size(c) (R35). -/
def totalSize (s : State) (c : Nat) : Nat := chunksTotal (chainAt s c).chunks

/-- How many chunks are in chains (R38). -/
def usedChunks (s : State) : Nat := (s.chains.map (fun x => x.chunks.length)).sum

/-- FREECHUNKS (R38). -/
def freeChunks (s : State) : Nat := s.params.nchunk - usedChunks s

/-- What a primitive of R104 or R106 returns: OK with its effect, or FULL or NOMEM with none. -/
inductive ChainResult
  | ok (s : State)
  | full
  | nomem
  deriving DecidableEq, Repr

/-- The free bytes of the last chunk (R104). -/
def room (ks : List Chunk) : Nat :=
  match ks.getLast? with
  | none => 0
  | some k => chunkSize - fill k

/-- How many new chunks n bytes need (R104): ceil(max(0, n − room) / 32). -/
def need (ks : List Chunk) (n : Nat) : Nat := (n - room ks + (chunkSize - 1)) / chunkSize

/-- Appending bytes to the last chunk's data (R104: "copy s[0..t) into last chunk"). -/
def fillLast : List Chunk → List Byte → List Chunk
  | [], _ => []
  | [k], b => [{ k with data := k.data ++ b }]
  | k :: k' :: ks, b => k :: fillLast (k' :: ks) b

/-- Chunks taken from the pool for the rest of the bytes, 32 to a chunk (R104's while loop; `fuel` bounds the
number of chunks). -/
def newChunks : Nat → List Byte → List Chunk
  | 0, _ => []
  | fuel + 1, b =>
      if b.isEmpty then [] else { data := b.take chunkSize, seek := 0 } :: newChunks fuel (b.drop chunkSize)

/-- The chunks of a chain after an accepted chain_write (R104). -/
def writeChunks (ks : List Chunk) (b : List Byte) : List Chunk :=
  let t := min (room ks) b.length
  fillLast ks (b.take t) ++ newChunks b.length (b.drop t)

/-- chain_write(c, s) (R104): all or nothing; FULL is checked before NOMEM. -/
def chainWrite (c : Nat) (b : List Byte) (s : State) : ChainResult :=
  let x := chainAt s c
  if x.maxcap.toNat < totalSize s c + b.length then .full
  else if b.length = 0 then .ok s
  else if freeChunks s < need x.chunks b.length then .nomem
  else .ok (setChain c { x with chunks := writeChunks x.chunks b } s)

/-- The loop of R105 over the chunks: the bytes read and the chunks left. A chunk read to its end is unlinked. -/
def readChunks : List Chunk → Nat → List Byte × List Chunk
  | [], _ => ([], [])
  | k :: ks, n =>
      if n = 0 then ([], k :: ks)
      else
        let t := min n (fill k - k.seek)
        let got := (k.data.drop k.seek).take t
        if k.seek + t = fill k then
          let r := readChunks ks (n - t)
          (got ++ r.1, r.2)
        else (got, { k with seek := k.seek + t } :: ks)

/-- The bytes chain_read(c, n) returns (R105). -/
def chainReadBytes (c n : Nat) (s : State) : List Byte := (readChunks (chainAt s c).chunks n).1

/-- The state chain_read(c, n) leaves (R105). It never fails. -/
def chainRead (c n : Nat) (s : State) : State :=
  setChain c { chainAt s c with chunks := (readChunks (chainAt s c).chunks n).2 } s

/-- chain_move(dst, src) (R106), dst ≠ src: src's chunks go after dst's; chunks are linked, not merged. -/
def chainMove (dst src : Nat) (s : State) : ChainResult :=
  let d := chainAt s dst
  let x := chainAt s src
  if x.chunks.isEmpty then .ok s
  else if d.maxcap.toNat < totalSize s dst + totalSize s src then .full
  else .ok (setChain src { x with chunks := [] } (setChain dst { d with chunks := d.chunks ++ x.chunks } s))

/-- chain_clear(c) (R107). -/
def chainClear (c : Nat) (s : State) : State := setChain c { chainAt s c with chunks := [] } s

/-- get_available(c) (R108). -/
def available (s : State) (c : Nat) : Nat := (chainAt s c).maxcap.toNat - totalSize s c

/-- is_full(c) (R108). -/
def isFull (s : State) (c : Nat) : Bool := decide ((chainAt s c).maxcap.toNat ≤ totalSize s c)

/-- A chain is locked when it is the assembly chain of a slot whose ASM_ACTIVE is 1 (R111). -/
def locked (s : State) (c : Nat) : Bool := decide (c % 2 = 0) && (slotAt s (c / 2)).asmActive

end Sys2Proof.Machine
end

