-- ==== Sys2Proof/Machine/Buf.lean ====
section
/-! DEFINITION. Machine/Buf.lean: the eight BUF commands (R113 to R120). Checks come in the order of each rule's
pseudocode: BADARG, BUSY, then FULL or NOMEM (R112, R166). -/

namespace Sys2Proof.Machine

/-- BUF_INIT (R113). -/
def execBufInit (ch : BitVec 4) (maxcap : Half) (s : State) : Result :=
  let c := ch.toNat
  if badChain s c then .next (fail .badarg s)
  else if locked s c then .next (fail .busy s)
  else .next (done (setChain c { maxcap := maxcap, chunks := [] } s))

/-- BUF_WRITE (R114): append XBUF[ARG0..ARG0+len) to chain CH. -/
def execBufWrite (ch : BitVec 4) (len : Half) (s : State) : Result :=
  let c := ch.toNat
  let off := s.arg0.toNat
  if badChain s c || badRange off len.toNat then .next (fail .badarg s)
  else if locked s c then .next (fail .busy s)
  else
    match chainWrite c (xreadRange s off len.toNat) s with
    | .ok s' => .next (done (setRes0Nat (totalSize s' c) s'))
    | .full => .next (fail .full s)
    | .nomem => .next (fail .nomem s)

/-- BUF_READ (R115): read up to len bytes of chain CH into XBUF at ARG0. -/
def execBufRead (ch : BitVec 4) (len : Half) (s : State) : Result :=
  let c := ch.toNat
  let off := s.arg0.toNat
  if badChain s c || badRange off len.toNat then .next (fail .badarg s)
  else if locked s c then .next (fail .busy s)
  else
    let r := chainReadBytes c len.toNat s
    let s' := chainRead c len.toNat s
    .next (done (setRes1Nat (totalSize s' c) (setRes0Nat r.length (xwriteRange off r s'))))

/-- BUF_MOVE (R116): append chain CH2's chunks to chain CH. -/
def execBufMove (dst src : BitVec 4) (s : State) : Result :=
  let d := dst.toNat
  let x := src.toNat
  if badChain s d || badChain s x || decide (d = x) then .next (fail .badarg s)
  else if locked s d || locked s x then .next (fail .busy s)
  else
    match chainMove d x s with
    | .ok s' => .next (done (setRes0Nat (totalSize s' d) s'))
    | .full => .next (fail .full s)
    | .nomem => .next (fail .nomem s)

/-- BUF_CLEAR (R117). -/
def execBufClear (ch : BitVec 4) (s : State) : Result :=
  let c := ch.toNat
  if badChain s c then .next (fail .badarg s)
  else if locked s c then .next (fail .busy s)
  else .next (done (chainClear c s))

/-- BUF_ISFULL (R118). -/
def execBufIsfull (ch : BitVec 4) (s : State) : Result :=
  let c := ch.toNat
  if badChain s c then .next (fail .badarg s)
  else .next (done (setRes0 (bit32 (isFull s c)) s))

/-- BUF_AVAIL (R119). -/
def execBufAvail (ch : BitVec 4) (s : State) : Result :=
  let c := ch.toNat
  if badChain s c then .next (fail .badarg s)
  else .next (done (setRes0Nat (available s c) s))

/-- BUF_SIZE (R120). -/
def execBufSize (ch : BitVec 4) (s : State) : Result :=
  let c := ch.toNat
  if badChain s c then .next (fail .badarg s)
  else .next (done (setRes0Nat (totalSize s c) s))

end Sys2Proof.Machine
end

