-- ==== Sys2Proof/Machine/Codec.lean ====
section
/-! DEFINITION. Machine/Codec.lean: the codec commands and TX_SEND (R89 to R94). -/

namespace Sys2Proof.Machine

/-- HDR_PACK (R89). -/
def execHdrPack (ty : FrameType) (port : Port) (seq : Seq) (s : State) : Result :=
  .next (done (setRes0 ((headerByte ty port seq).setWidth 32) s))

/-- RES0 of HDR_UNPACK (R90): type in 2:0, port in 10:8, sequence in 17:16. -/
def unpackedHeader (b : Byte) : Word :=
  (frameTypeCode (headerType b)).setWidth 32 ||| (headerPort b).setWidth 32 <<< 8 |||
    (headerSeq b).setWidth 32 <<< 16

/-- HDR_UNPACK (R90). -/
def execHdrUnpack (b : Byte) (s : State) : Result := .next (done (setRes0 (unpackedHeader b) s))

/-- ID_PACK (R91): destination ARG0, source ARG1, the bits above 13 ignored. -/
def execIdPack (s : State) : Result :=
  .next (done (setRes0 ((packId (addrOf s.arg0) (addrOf s.arg1)).setWidth 32) s))

/-- ID_UNPACK (R92): bits 31:29 of ARG0 ignored; RSV in RES1[16]. -/
def execIdUnpack (s : State) : Result :=
  let id : CanId := s.arg0.setWidth 29
  .next (done (setRes1 ((idSrc id).setWidth 32 ||| bit32 (idRsv id) <<< 16) (setRes0 ((idDst id).setWidth 32) s)))

/-- RES0 of ID_MATCH for a destination (R93): bit 0 to me, bit 1 broadcast, bit 2 accepted. -/
def matchBits (own dst : BusAddr) : Word :=
  let me := decide (dst = own)
  let bc := decide (dst = addrBcast)
  bit32 me ||| bit32 bc <<< 1 ||| bit32 (me || bc) <<< 2

/-- ID_MATCH (R93): it uses OWNADDR whether or not RUN = 1. -/
def execIdMatch (s : State) : Result :=
  .next (done (setRes0 (matchBits s.ownaddr (idDst (s.arg0.setWidth 29))) s))

/-- The frame TX_SEND builds (R94): IDE = 1, RTR = 0, DLC = 1 + LEN, the header and XBUF[0..LEN). -/
def txFrame (ty : FrameType) (port : Port) (seq : Seq) (len : BitVec 4) (s : State) : Frame :=
  { id := packId (addrOf s.arg0) s.ownaddr, ide := true, rtr := false, dlc := 1 + len,
    data := headerByte ty port seq :: xreadRange s 0 len.toNat }

/-- A frame the TX port accepted (R94, R153): it is in TXOUT and in the TX counters. -/
def sent (f : Frame) (s : State) : State :=
  { s with txout := s.txout ++ [f], txframes := s.txframes + 1, txbytes := s.txbytes + f.dlc.setWidth 32 }

/-- TX_SEND (R94, R153): BADARG, NOTUP and IOERR in this order. -/
def execTxSend (ty : FrameType) (port : Port) (seq : Seq) (len : BitVec 4) (s : State) : Result :=
  if decide (7 < len.toNat) || above14 s.arg0 then .next (fail .badarg s)
  else if !s.run then .next (fail .notup s)
  else if txAnswer s then .next (done (answerUsed (sent (txFrame ty port seq len s) s)))
  else .next (fail .ioerr (answerUsed s))

end Sys2Proof.Machine
end

