-- ==== Sys2Proof/Machine/Flags.lean ====
section
/-! DEFINITION. Machine/Flags.lean: the status bits and the words software reads them in: STATUS (R20), FREECHUNKS
(R26), CFG (R27), IRQEN (R28), the event words EV0 and EV1 (R22, R151), SLOT_GET's words (R126), and the IRQ
output (R172). The block has no condition codes (R42). -/

namespace Sys2Proof.Machine

/-- EVCOUNT, a view of the event FIFO (R20, R39). -/
def evCount (s : State) : Nat := s.events.length

/-- EVNE (R20). -/
def evNotEmpty (s : State) : Bool := decide (0 < evCount s)

/-- EVFULL (R20). -/
def evFull (s : State) : Bool := decide (evCount s = s.params.evqDepth)

/-- STATUS (R20): ERR 3:0, RUN 4, RXERR 5, EVNE 6, EVFULL 7, EVCOUNT 15:8, OWNADDR 29:16, bits 31:30 zero. -/
def statusWord (s : State) : Word :=
  (errCode s.err).setWidth 32 ||| bit32 s.run <<< 4 ||| bit32 s.rxerr <<< 5 ||| bit32 (evNotEmpty s) <<< 6 |||
    bit32 (evFull s) <<< 7 ||| (BitVec.ofNat 8 (evCount s)).setWidth 32 <<< 8 ||| s.ownaddr.setWidth 32 <<< 16

/-- FREECHUNKS (R26): bits 15:0 the number of free chunks, bits 31:16 zero. -/
def freeChunksWord (s : State) : Word := (BitVec.ofNat 16 (freeChunks s)).setWidth 32

/-- CFG (R27): NSLOT in 3:0, EVQ_DEPTH in 15:8, NCHUNK in 31:16. -/
def cfgWord (s : State) : Word :=
  (BitVec.ofNat 4 s.params.nslot).setWidth 32 ||| (BitVec.ofNat 8 s.params.evqDepth).setWidth 32 <<< 8 |||
    (BitVec.ofNat 16 s.params.nchunk).setWidth 32 <<< 16

/-- IRQEN as it reads (R28): EVIE in bit 0, ERRIE in bit 1, the reserved bits zero. -/
def irqenWord (s : State) : Word := bit32 s.evie ||| bit32 s.errie <<< 1

/-- IRQEN ← w (R28): the reserved bits are ignored. -/
def setIrqen (w : Word) (s : State) : State := { s with evie := w.getLsbD 0, errie := w.getLsbD 1 }

/-- The IRQ output (R172): a function of the current state, not latched. -/
def irq (s : State) : Bool := (s.evie && decide (0 < evCount s)) || (s.errie && s.rxerr)

/-- EV0 of an event (R22, R151). -/
def ev0Word (e : Event) : Word :=
  (kindCode e.kind).setWidth 32 ||| e.slot.setWidth 32 <<< 4 ||| e.port.setWidth 32 <<< 8 |||
    e.seq.setWidth 32 <<< 11 ||| e.src.setWidth 32 <<< 16

/-- EV1 of an event (R22, R151). -/
def ev1Word (e : Event) : Word := e.value.setWidth 32 ||| e.flags.setWidth 32 <<< 16

/-- RES0 of SLOT_GET (R126). -/
def slotWord0 (x : Slot) : Word :=
  (roleCode x.role).setWidth 32 ||| (protoCode x.proto).setWidth 32 <<< 3 ||| x.port.setWidth 32 <<< 4 |||
    bit32 x.asmActive <<< 7 ||| bit32 x.asmErr <<< 8 ||| x.asmSeq.setWidth 32 <<< 9 |||
    x.rxSeq.setWidth 32 <<< 11 ||| x.remote.setWidth 32 <<< 14

/-- RES1 of SLOT_GET (R126). -/
def slotWord1 (x : Slot) : Word := x.asmSize.setWidth 32 ||| x.asmCrc.setWidth 32 <<< 16

end Sys2Proof.Machine
end

