-- ==== Sys2Proof/Machine/Control.lean ====
section
/-! DEFINITION. Machine/Control.lean: NOP, the interface commands (R156 to R159) and EV_POP (R151). -/

namespace Sys2Proof.Machine

/-- NOP (R156): it clears a failure code left in STATUS.ERR. -/
def execNop (s : State) : Result := .next (done s)

/-- An address IF_UP refuses (R157): 0x0000, 0x3FFF, and any value above 14 bits. -/
def badOwnAddr (w : Word) : Bool := decide (w.toNat = 0) || decide (0x3FFF ≤ w.toNat)

/-- IF_UP (R157). -/
def execIfUp (s : State) : Result :=
  if badOwnAddr s.arg0 then .next (fail .badarg s)
  else .next (done { s with ownaddr := addrOf s.arg0, run := true, rxerr := false })

/-- IF_DOWN (R158). -/
def execIfDown (s : State) : Result := .next (done { s with run := false })

/-- CNT_CLEAR (R159). -/
def execCntClear (s : State) : Result :=
  .next (done { s with rxframes := 0, rxbytes := 0, txframes := 0, txbytes := 0, rxdrop := 0 })

/-- EV_POP (R151): an empty FIFO shows KIND = NONE. -/
def execEvPop (s : State) : Result :=
  match s.events with
  | [] => .next (done { s with ev0 := 0, ev1 := 0 })
  | e :: es => .next (done { s with ev0 := ev0Word e, ev1 := ev1Word e, events := es })

end Sys2Proof.Machine
end

