-- ==== Sys2Proof/Machine/Slots.lean ====
section
/-! DEFINITION. Machine/Slots.lean: the slot table (R121 to R126): abort_asm, conflict, and the commands SLOT_SET,
SLOT_FREE and SLOT_GET. -/

namespace Sys2Proof.Machine

/-- abort_asm(i) (R122). -/
def abortAsm (i : Nat) (s : State) : State :=
  chainClear (asmChain i) (setSlot i { slotAt s i with asmActive := false, asmErr := false } s)

/-- Whether slot j's registration excludes one with this role, port and remote (R123). -/
def excludes (x : Slot) (role : Role) (port : Port) (remote : BusAddr) : Bool :=
  (isListening role && isListening x.role && decide (x.port = port)) ||
    (isPeered role && isPeered x.role && decide (x.port = port) && decide (x.remote = remote))

/-- conflict(i, role, port, remote) (R123): some slot j ≠ i excludes it. -/
def conflict (s : State) (i : Nat) (role : Role) (port : Port) (remote : BusAddr) : Bool :=
  (List.range s.params.nslot).any (fun j => decide (j ≠ i) && excludes (slotAt s j) role port remote)

/-- An address no CONNECTING or CONNECTED slot may have as its remote (R124). -/
def badRemote (role : Role) (a : BusAddr) : Bool :=
  isPeered role && (decide (a = addrAny) || decide (a = addrBcast))

/-- The registration SLOT_SET writes into slot i (R124), after abort_asm. -/
def register (i : Nat) (role : Role) (proto : Proto) (port : Port) (remote : BusAddr) (s : State) : State :=
  setSlot i { slotAt s i with role := role, proto := proto, port := port, remote := remote, rxSeq := 0 } s

/-- SLOT_SET (R124). -/
def execSlotSet (slot : BitVec 4) (role : BitVec 3) (proto : Proto) (port : Port) (s : State) : Result :=
  let i := slot.toNat
  if badSlot s i then .next (fail .badarg s)
  else
    match settableRole role with
    | none => .next (fail .badarg s)
    | some r =>
        if above14 s.arg0 then .next (fail .badarg s)
        else if badRemote r (addrOf s.arg0) then .next (fail .badarg s)
        else if conflict s i r port (addrOf s.arg0) then .next (fail .portbusy s)
        else .next (done (register i r proto port (addrOf s.arg0) (abortAsm i s)))

/-- SLOT_FREE (R125): the registration and both chains' bytes go; both MAXCAP stay (log entry 10). -/
def execSlotFree (slot : BitVec 4) (s : State) : Result :=
  let i := slot.toNat
  if badSlot s i then .next (fail .badarg s)
  else .next (done (register i .free .dgram 0 addrAny (chainClear (readyChain i) (abortAsm i s))))

/-- SLOT_GET (R126): ASM_SRC and ASM_CRC_EXP are not shown. -/
def execSlotGet (slot : BitVec 4) (s : State) : Result :=
  let i := slot.toNat
  if badSlot s i then .next (fail .badarg s)
  else .next (done (setRes1 (slotWord1 (slotAt s i)) (setRes0 (slotWord0 (slotAt s i)) s)))

end Sys2Proof.Machine
end

