-- ==== Sys2Proof/Machine/Dispatch.lean ====
section
/-! DEFINITION. Machine/Dispatch.lean: the meaning of each command, one arm a constructor of Instr. -/

namespace Sys2Proof.Machine

def exec (i : Instr) (s : State) : Host.Outcome State Fault Refusal :=
  match i with
  | .nop => Sys2Proof.Machine.execNop s
  | .hdrPack ty port seq => Sys2Proof.Machine.execHdrPack ty port seq s
  | .hdrUnpack b => Sys2Proof.Machine.execHdrUnpack b s
  | .idPack => Sys2Proof.Machine.execIdPack s
  | .idUnpack => Sys2Proof.Machine.execIdUnpack s
  | .idMatch => Sys2Proof.Machine.execIdMatch s
  | .crcInit => Sys2Proof.Machine.execCrcInit s
  | .crcUpdate len => Sys2Proof.Machine.execCrcUpdate len s
  | .bufInit ch cap => Sys2Proof.Machine.execBufInit ch cap s
  | .bufWrite ch len => Sys2Proof.Machine.execBufWrite ch len s
  | .bufRead ch len => Sys2Proof.Machine.execBufRead ch len s
  | .bufMove dst src => Sys2Proof.Machine.execBufMove dst src s
  | .bufClear ch => Sys2Proof.Machine.execBufClear ch s
  | .bufIsfull ch => Sys2Proof.Machine.execBufIsfull ch s
  | .bufAvail ch => Sys2Proof.Machine.execBufAvail ch s
  | .bufSize ch => Sys2Proof.Machine.execBufSize ch s
  | .slotSet slot role proto port => Sys2Proof.Machine.execSlotSet slot role proto port s
  | .slotFree slot => Sys2Proof.Machine.execSlotFree slot s
  | .slotGet slot => Sys2Proof.Machine.execSlotGet slot s
  | .ifUp => Sys2Proof.Machine.execIfUp s
  | .ifDown => Sys2Proof.Machine.execIfDown s
  | .cntClear => Sys2Proof.Machine.execCntClear s
  | .txSend ty port seq len => Sys2Proof.Machine.execTxSend ty port seq len s
  | .evPop => Sys2Proof.Machine.execEvPop s

end Sys2Proof.Machine
end

