-- ==== Sys2Proof/Machine/Receive.lean ====
section
/-! DEFINITION. Machine/Receive.lean: the dispatcher (R127 to R148): when it has a step, its checks and routing, the
handlers of the eight frame types, and the counting of R146. A handler answers `none` for the rule's `drop` and the
state before `take` otherwise. -/

namespace Sys2Proof.Machine

/-- The dispatcher has a step exactly when RUN = 1, RXIN ≠ [] and EVCOUNT < EVQ_DEPTH (R127). -/
def dispatcherEnabled (s : State) : Bool :=
  s.run && !s.rxin.isEmpty && decide (evCount s < s.params.evqDepth)

/-- Not a CANNET frame (R129). -/
def notCannet (f : Frame) : Bool := !f.ide || f.rtr || decide (frameLen f = 0) || decide (8 < frameLen f)

/-- The destination is neither OWNADDR nor broadcast (R130). -/
def notForMe (s : State) (f : Frame) : Bool :=
  decide (frameDst f ≠ s.ownaddr) && decide (frameDst f ≠ addrBcast)

/-- A payload too short for its type (R131). -/
def malformed (f : Frame) : Bool :=
  (decide (frameType f = .first) && decide (frameLen f < 5)) ||
    (decide (frameType f = .stat) && flagResponse (frameFlags f) && decide (frameLen f < 4))

/-- The slot with this role, port and remote (R132, R133). It is unique by R34 (log entry 12). -/
def findPeer (s : State) (ok : Role → Bool) (port : Port) (src : BusAddr) : Option Nat :=
  (List.range s.params.nslot).find? fun i =>
    ok (slotAt s i).role && decide ((slotAt s i).port = port) && decide ((slotAt s i).remote = src)

/-- The slot with this role and port (R132, R133). It is unique by R34 (log entry 12). -/
def findPort (s : State) (role : Role) (port : Port) : Option Nat :=
  (List.range s.params.nslot).find? fun i =>
    decide ((slotAt s i).role = role) && decide ((slotAt s i).port = port)

/-- ROLE = r, as a test. -/
def roleIs (r : Role) (x : Role) : Bool := decide (x = r)

/-- route_data(port, src) (R132): the CONNECTED slot of port and source, else the BOUND slot of the port. -/
def routeData (s : State) (f : Frame) : Option Nat :=
  match findPeer s (roleIs .connected) (framePort f) (frameSrc f) with
  | some i => some i
  | none => findPort s .bound (framePort f)

/-- ev(kind, i, value, flags) (R134). -/
def mkEvent (f : Frame) (kind : EventKind) (i : Nat) (value : Half) (flags : Byte) : Event :=
  { kind := kind, slot := BitVec.ofNat 4 i, port := framePort f, seq := frameSeq f, src := frameSrc f,
    value := value, flags := flags }

/-- append(i, s) (R135): once ASM_ERR = 1 nothing more of the transfer is stored or folded into the CRC. -/
def appendAsm (i : Nat) (b : List Byte) (s : State) : State :=
  if (slotAt s i).asmErr then s
  else
    match chainWrite (asmChain i) b s with
    | .ok s' => setSlot i { slotAt s' i with asmCrc := crcFold (slotAt s' i).asmCrc b } s'
    | .full => setSlot i { slotAt s i with asmErr := true } s
    | .nomem => setSlot i { slotAt s i with asmErr := true } s

/-- The failure reasons of R24. -/
def reasonSize : Byte := 1
def reasonCrc : Byte := 2
def reasonFull : Byte := 3

/-- A transfer that failed (R136, R137): the assembly chain is cleared, and a STREAM slot posts XFER_FAIL. -/
def transferFails (f : Frame) (i : Nat) (value : Half) (reason : Byte) (s : State) : State :=
  let s' := chainClear (asmChain i) s
  match (slotAt s i).proto with
  | .stream => post (mkEvent f .xferFail i value reason) s'
  | .dgram => s'

/-- A transfer that is in the ready chain (R136, R137): RX_SEQ records its sequence and XFER_OK is posted. -/
def transferDone (f : Frame) (i : Nat) (seq : Seq) (value : Half) (s : State) : State :=
  post (mkEvent f .xferOk i value 0) (setSlot i { slotAt s i with rxSeq := seq } s)

/-- ASM_ACTIVE ← 0; ASM_ERR ← 0 (R136). -/
def asmEnds (i : Nat) (s : State) : State := setSlot i { slotAt s i with asmActive := false, asmErr := false } s

/-- finish(i) (R136): the first reason that holds, in the rule's order, is reported. -/
def finishAsm (f : Frame) (i : Nat) (s : State) : State :=
  let x := slotAt s i
  let sz := totalSize s (asmChain i)
  if x.asmErr then asmEnds i (transferFails f i x.asmSize reasonFull s)
  else if sz ≠ x.asmSize.toNat then asmEnds i (transferFails f i x.asmSize reasonSize s)
  else if x.asmCrc ≠ x.asmCrcExp then asmEnds i (transferFails f i x.asmSize reasonCrc s)
  else
    match chainMove (readyChain i) (asmChain i) s with
    | .ok s' => asmEnds i (transferDone f i x.asmSeq (BitVec.ofNat 16 sz) s')
    | .full => asmEnds i (transferFails f i x.asmSize reasonFull s)
    | .nomem => asmEnds i (transferFails f i x.asmSize reasonFull s)

/-- Handler `single` (R137). -/
def handleSingle (f : Frame) (s : State) : Option State :=
  (routeData s f).map fun i =>
    let a := abortAsm i s
    let value := BitVec.ofNat 16 (frameLen f - 1)
    match chainWrite (asmChain i) (framePayload f 1) a with
    | .ok w =>
        match chainMove (readyChain i) (asmChain i) w with
        | .ok m => transferDone f i (frameSeq f) value m
        | .full => transferFails f i value reasonFull w
        | .nomem => transferFails f i value reasonFull w
    | .full => transferFails f i value reasonFull a
    | .nomem => transferFails f i value reasonFull a

/-- The ASM fields a `first` frame sets (R138). -/
def startAsm (f : Frame) (i : Nat) (s : State) : State :=
  setSlot i { slotAt s i with
    asmActive := true, asmErr := false, asmSeq := frameSeq f, asmSrc := frameSrc f,
    asmSize := frameHalf f 1, asmCrcExp := frameHalf f 3, asmCrc := crcSeed } s

/-- Handler `first` (R138). -/
def handleFirst (f : Frame) (s : State) : Option State :=
  (routeData s f).map fun i => appendAsm i (framePayload f 5) (startAsm f i (abortAsm i s))

/-- A `next` or `last` that belongs to the transfer in progress on the slot (R139, R140). -/
def continues (x : Slot) (f : Frame) : Bool :=
  x.asmActive && decide (frameSeq f = x.asmSeq) && decide (frameSrc f = x.asmSrc)

/-- Handler `next` (R139). -/
def handleNext (f : Frame) (s : State) : Option State :=
  match routeData s f with
  | none => none
  | some i => if continues (slotAt s i) f then some (appendAsm i (framePayload f 1) s) else none

/-- Handler `last` (R140). -/
def handleLast (f : Frame) (s : State) : Option State :=
  match routeData s f with
  | none => none
  | some i =>
      if continues (slotAt s i) f then some (finishAsm f i (appendAsm i (framePayload f 1) s)) else none

/-- ROLE ← r of slot i. -/
def setRole (i : Nat) (r : Role) (s : State) : State := setSlot i { slotAt s i with role := r } s

/-- Handler `connect` (R141). -/
def handleConnect (f : Frame) (s : State) : Option State :=
  let fl := frameFlags f
  if flagResponse fl then
    (findPeer s (roleIs .connecting) (framePort f) (frameSrc f)).map fun i =>
      post (mkEvent f .connectResp i 0 fl) (if flagConnected fl then setRole i .connected s else s)
  else
    (findPort s .listen (framePort f)).map fun i => post (mkEvent f .connectReq i 0 fl) s

/-- Handler `disconnect` (R143). -/
def handleDisconnect (f : Frame) (s : State) : Option State :=
  (findPeer s isPeered (framePort f) (frameSrc f)).map fun i =>
    post (mkEvent f .disconnect i 0 (frameFlags f)) (setRole i .closed (abortAsm i s))

/-- Handler `stat` (R144). -/
def handleStat (f : Frame) (s : State) : Option State :=
  let fl := frameFlags f
  (findPeer s (roleIs .connected) (framePort f) (frameSrc f)).map fun i =>
    if flagResponse fl then post (mkEvent f .statResp i (frameHalf f 2) fl) s
    else post (mkEvent f .statReq i 0 fl) s

/-- Handler `ack` (R145). -/
def handleAck (f : Frame) (s : State) : Option State :=
  (findPeer s (roleIs .connected) (framePort f) (frameSrc f)).map fun i =>
    post (mkEvent f .ack i 0 (frameFlags f)) s

/-- The handler of the frame's type (R132, R133, R137 to R145). -/
def handle (f : Frame) (s : State) : Option State :=
  match frameType f with
  | .first => handleFirst f s
  | .next => handleNext f s
  | .last => handleLast f s
  | .single => handleSingle f s
  | .connect => handleConnect f s
  | .disconnect => handleDisconnect f s
  | .stat => handleStat f s
  | .ack => handleAck f s

/-- Processing one frame completely (R128 to R146): it ends in exactly one of `drop` and `take`. -/
def receive (f : Frame) (s : State) : State :=
  if notCannet f || notForMe s f || malformed f then drop s
  else
    match handle f s with
    | none => drop s
    | some s' => take f s'

/-- One dispatcher step: the frame at the head of RXIN is taken and processed (R128). -/
def dispatcherStep (s : State) : State :=
  match s.rxin with
  | [] => s
  | f :: fs => receive f { s with rxin := fs }

/-- The dispatcher scheduled: its step where it has one (R127); a held dispatcher has none, and nothing changes
(U9; log entry 4). -/
def dispatcherTurn (s : State) : State := if dispatcherEnabled s then dispatcherStep s else s

end Sys2Proof.Machine
end

