-- ==== Sys2Proof/Machine/Bus.lean ====
section
/-! DEFINITION. Machine/Bus.lean: the host's side (R18 to R30, R47 to R49): the register map, reads and writes of
registers and of the XBUF window, the write of CMD that runs a command (R19, R67), and the environment's steps (R152,
R154). -/

namespace Sys2Proof.Machine

/-- The registers of the map (R18). -/
inductive Reg
  | cmd | arg0 | arg1 | res0 | res1 | status | crcacc | ev0 | ev1
  | rxframes | rxbytes | txframes | txbytes | rxdrop | freechunks | cfg | irqen
  deriving DecidableEq, Repr

/-- The offset column of R18. -/
def regOffset : Reg → Nat
  | .cmd => 0x000
  | .arg0 => 0x004
  | .arg1 => 0x008
  | .res0 => 0x00C
  | .res1 => 0x010
  | .status => 0x014
  | .crcacc => 0x018
  | .ev0 => 0x01C
  | .ev1 => 0x020
  | .rxframes => 0x024
  | .rxbytes => 0x028
  | .txframes => 0x02C
  | .txbytes => 0x030
  | .rxdrop => 0x034
  | .freechunks => 0x038
  | .cfg => 0x03C
  | .irqen => 0x040

/-- The register at an offset (R18). -/
def regAt (off : Nat) : Option Reg :=
  match off with
  | 0x000 => some .cmd
  | 0x004 => some .arg0
  | 0x008 => some .arg1
  | 0x00C => some .res0
  | 0x010 => some .res1
  | 0x014 => some .status
  | 0x018 => some .crcacc
  | 0x01C => some .ev0
  | 0x020 => some .ev1
  | 0x024 => some .rxframes
  | 0x028 => some .rxbytes
  | 0x02C => some .txframes
  | 0x030 => some .txbytes
  | 0x034 => some .rxdrop
  | 0x038 => some .freechunks
  | 0x03C => some .cfg
  | 0x040 => some .irqen
  | _ => none

/-- The size of the register window (R18, R44). -/
def windowSize : Nat := 0x200

/-- Where the XBUF window begins (R18, R29). -/
def xbufWindow : Nat := 0x100

/-- What a register reads (R17 to R28). -/
def readReg (r : Reg) (s : State) : Word :=
  match r with
  | .cmd => s.lastcmd
  | .arg0 => s.arg0
  | .arg1 => s.arg1
  | .res0 => s.res0
  | .res1 => s.res1
  | .status => statusWord s
  | .crcacc => s.crcacc.setWidth 32
  | .ev0 => s.ev0
  | .ev1 => s.ev1
  | .rxframes => s.rxframes
  | .rxbytes => s.rxbytes
  | .txframes => s.txframes
  | .txbytes => s.txbytes
  | .rxdrop => s.rxdrop
  | .freechunks => freeChunksWord s
  | .cfg => cfgWord s
  | .irqen => irqenWord s

/-- The XBUF word whose first byte is byte j (R29, R46): byte j+k in bits 8k+7 : 8k. -/
def xbufWord (s : State) (j : Nat) : Word :=
  (xread s j).setWidth 32 ||| (xread s (j + 1)).setWidth 32 <<< 8 ||| (xread s (j + 2)).setWidth 32 <<< 16 |||
    (xread s (j + 3)).setWidth 32 <<< 24

/-- The four bytes of a word, low byte first (R46). -/
def wordBytes (w : Word) : List Byte :=
  [w.extractLsb' 0 8, w.extractLsb' 8 8, w.extractLsb' 16 8, w.extractLsb' 24 8]

/-- What an aligned 32-bit read of an offset of the window returns (R18, R29, R30). -/
def readWindow (off : Nat) (s : State) : Word :=
  if xbufWindow ≤ off then xbufWord s (off - xbufWindow)
  else
    match regAt off with
    | some r => readReg r s
    | none => 0

/-- A word written to CMD (R19, R67): LASTCMD gets it, and the command it encodes runs in the same step; a word
that is no command fails with BADCMD. -/
def runCommand (w : Word) (s : State) : Result :=
  let s1 := { s with lastcmd := w }
  match decode w with
  | .command i => exec i s1
  | .reservedOpcode _ => .next (fail .badcmd s1)
  | .nonzeroReservedBits _ => .next (fail .badcmd s1)

/-- What a write of a register does (R17, R19, R28, R49): a read-only register ignores it (R30, R168). -/
def writeReg (r : Reg) (w : Word) (s : State) : Result :=
  match r with
  | .cmd => runCommand w s
  | .arg0 => .next { s with arg0 := w }
  | .arg1 => .next { s with arg1 := w }
  | .irqen => .next (setIrqen w s)
  | .res0 => .next s
  | .res1 => .next s
  | .status => .next s
  | .crcacc => .next s
  | .ev0 => .next s
  | .ev1 => .next s
  | .rxframes => .next s
  | .rxbytes => .next s
  | .txframes => .next s
  | .txbytes => .next s
  | .rxdrop => .next s
  | .freechunks => .next s
  | .cfg => .next s

/-- What an aligned 32-bit write of an offset of the window does (R18, R29, R30, R49): a word of XBUF, a register, or a
reserved offset, which ignores it. -/
def writeWindow (off : Nat) (w : Word) (s : State) : Result :=
  if xbufWindow ≤ off then .next (xwriteRange (off - xbufWindow) (wordBytes w) s)
  else
    match regAt off with
    | some r => writeReg r w s
    | none => .next s

/-- Whether a host access of `width` bytes at `addr` reaches the block (R48): it touches its window. -/
def reaches (p : Params) (width addr : Nat) : Bool :=
  decide (p.base < addr + width) && decide (addr < p.base + windowSize)

/-- Whether an access that reaches the block is one it performs (R47): 32 bits wide, aligned, inside the window. -/
def wordAccess (p : Params) (width addr : Nat) : Bool :=
  decide (width = 4) && decide (p.base ≤ addr) && decide (addr % 4 = 0) && decide (addr < p.base + windowSize)

/-- A host read (R15, R47 to R49). It changes nothing of the block; what it returned is kept for the host (log
entry 5). An access outside the window does not reach the block (log entry 6). -/
def hostRead (width addr : Nat) (s : State) : Result :=
  if wordAccess s.params width addr then
    .next { s with readData := some (readWindow (addr - s.params.base) s) }
  else if reaches s.params width addr then .fault .busError
  else .next s

/-- A host write (R15, R47 to R49). -/
def hostWrite (width addr : Nat) (value : Word) (s : State) : Result :=
  if wordAccess s.params width addr then writeWindow (addr - s.params.base) value s
  else if reaches s.params width addr then .fault .busError
  else .next s

/-- The environment appends a frame to RXIN (R152), whatever RUN is (log entry 7). -/
def offerFrame (f : Frame) (s : State) : State := { s with rxin := s.rxin ++ [Frame.record f] }

/-- The environment signals an RX device error (R154): possible only while RUN = 1; scheduled otherwise, nothing
changes (log entry 4). -/
def rxDeviceError (s : State) : State := if s.run then { s with rxerr := true, run := false } else s

/-- One scheduled step of one agent (R15), or the reset input (R180). -/
def runTurn (t : Turn) (s : State) : Result :=
  match t with
  | .read width addr => hostRead width addr s
  | .write width addr value => hostWrite width addr value s
  | .dispatcher => .next (dispatcherTurn s)
  | .rxFrame f => .next (offerFrame f s)
  | .rxError => .next (rxDeviceError s)
  | .blockReset => .next (resetBlock s)

/-- One step of the machine (R15, R51): the agenda's next turn; where no turn is listed, the dispatcher, the one
agent whose steps need nothing from outside, is scheduled (log entry 4). -/
def nextTurn (s : State) : Result :=
  match s.agenda with
  | [] => .next (dispatcherTurn s)
  | t :: ts => runTurn t { s with agenda := ts }

end Sys2Proof.Machine
end

