-- ==== Sys2Proof/Machine/Step.lean ====
section
/-! DEFINITION. Machine/Step.lean: one step of the machine, and how a command word is put where the next step takes
it from. -/

namespace Sys2Proof.Machine

/-- One step: the next scheduled step of one of the three agents (R15, R51). -/
def step (s : State) : Host.Outcome State Fault Refusal := nextTurn s

/-- The block fetches no instructions: a command comes in the host's write of CMD (R16, R19). So the word is put
there: the next turn is the host's 32-bit write of it to CMD (log entry 8). -/
def State.withFetchWord (s : State) (_nbits w : Nat) : State :=
  { s with agenda := .write 4 (s.params.base + regOffset .cmd) (BitVec.ofNat 32 w) :: s.agenda }

end Sys2Proof.Machine
end

