-- ==== Sys2Proof/Machine/HostProgram.lean ====
section
/-! DEFINITION. Machine/HostProgram.lean: the host-program notation of R72 as scheduled steps, and what the host does
with the block that the spec states exactly: the canonical segmentation of R88. The block itself does none of it. -/

namespace Sys2Proof.Machine

/-- `wr REG, v` (R72). -/
def wr (p : Params) (r : Reg) (v : Word) : Turn := .write 4 (p.base + regOffset r) v

/-- `rd REG` (R72). -/
def rd (p : Params) (r : Reg) : Turn := .read 4 (p.base + regOffset r)

/-- A command mnemonic with fields (R72): `wr CMD, word`. -/
def cmd (p : Params) (i : Instr) : Turn := wr p .cmd (encode i)

/-- The word of up to four bytes, the bytes beyond the list 0 (R72, R46). -/
def wordOf (b : List Byte) : Word :=
  (b.getD 0 0).setWidth 32 ||| (b.getD 1 0).setWidth 32 <<< 8 ||| (b.getD 2 0).setWidth 32 <<< 16 |||
    (b.getD 3 0).setWidth 32 <<< 24

/-- The word writes from XBUF byte `off` on, four bytes each; `fuel` bounds their number. -/
def xbWords (p : Params) : Nat → Nat → List Byte → List Turn
  | 0, _, _ => []
  | fuel + 1, off, b =>
      if b.isEmpty then []
      else .write 4 (p.base + xbufWindow + off) (wordOf (b.take 4)) :: xbWords p fuel (off + 4) (b.drop 4)

/-- `xb off: b0 b1 ...` (R72), off a multiple of 4. -/
def xb (p : Params) (off : Nat) (b : List Byte) : List Turn := xbWords p b.length off b

/-- `rx {id, dlc, data}` (R72): the environment offers the frame, IDE = 1 and RTR = 0, then the dispatcher steps. -/
def rx (id : CanId) (dlc : BitVec 4) (data : List Byte) : List Turn :=
  [.rxFrame { id := id, ide := true, rtr := false, dlc := dlc, data := data }, .dispatcher]

/-- The CANNET frame of a header and a payload of at most 7 bytes (R73, R76, R79, R80). -/
def wireFrame (dst src : BusAddr) (ty : FrameType) (port : Port) (seq : Seq) (payload : List Byte) : Frame :=
  { id := packId dst src, ide := true, rtr := false, dlc := BitVec.ofNat 4 (1 + payload.length),
    data := headerByte ty port seq :: payload }

/-- The payload of a `first` frame (R81): size and CRC low byte first, then the data. -/
def firstPayload (size crc : Half) (data : List Byte) : List Byte :=
  [size.extractLsb' 0 8, size.extractLsb' 8 8, crc.extractLsb' 0 8, crc.extractLsb' 8 8] ++ data

/-- R88 after the `first` frame: `next` frames of 7 bytes while more than 7 remain, then `last`. -/
def segmentRest : Nat → List Byte → List (FrameType × List Byte)
  | 0, d => [(.last, d)]
  | fuel + 1, d =>
      if 7 < d.length then (.next, d.take 7) :: segmentRest fuel (d.drop 7) else [(.last, d)]

/-- Canonical segmentation of d (R88): each frame's type and payload. -/
def segmentData (d : List Byte) : List (FrameType × List Byte) :=
  if d.length ≤ 7 then [(.single, d)]
  else (.first, firstPayload (BitVec.ofNat 16 d.length) (crc16 d) (d.take 3)) :: segmentRest d.length (d.drop 3)

/-- The frames of a canonical transfer from src to dst (R87, R88): all with one sequence number. -/
def transferFrames (dst src : BusAddr) (port : Port) (seq : Seq) (d : List Byte) : List Frame :=
  (segmentData d).map fun x => wireFrame dst src x.1 port seq x.2

end Sys2Proof.Machine
end

