-- ==== Sys2Proof/Safety.lean ====
section
/-! DEFINITION. Safety.lean: the invariants the spec states of the machine (R34, R36 to R39, R103), in the terms the
obligations use, and which host accesses are legal (R47). -/

namespace Sys2Proof.Machine

/-- Every chunk of a chain has SEEK < FILL ≤ 32 (R36). -/
abbrev ChunkOk (k : Chunk) : Prop := k.seek < fill k ∧ fill k ≤ chunkSize

/-- A chain holds no chunk without unread bytes (R36, R103) and never passes its MAXCAP (R37). -/
abbrev ChainOk (x : Chain) : Prop := (∀ k ∈ x.chunks, ChunkOk k) ∧ chunksTotal x.chunks ≤ x.maxcap.toNat

/-- NSLOT slots and NCHAIN = 2·NSLOT chains (R8, R32, R35). -/
abbrev Shaped (s : State) : Prop := s.slots.length = s.params.nslot ∧ s.chains.length = nchain s

/-- R34 (a): for each port at most one slot is BOUND or LISTEN on it. -/
abbrev PortsUnique (s : State) : Prop :=
  ∀ i < s.params.nslot, ∀ j < s.params.nslot,
    isListening (slotAt s i).role = true → isListening (slotAt s j).role = true →
      (slotAt s i).port = (slotAt s j).port → i = j

/-- R34 (b): for each port and address at most one slot is CONNECTING or CONNECTED to it. -/
abbrev PeersUnique (s : State) : Prop :=
  ∀ i < s.params.nslot, ∀ j < s.params.nslot,
    isPeered (slotAt s i).role = true → isPeered (slotAt s j).role = true →
      (slotAt s i).port = (slotAt s j).port → (slotAt s i).remote = (slotAt s j).remote → i = j

/-- R34 (c), (d), (e) of one slot. -/
abbrev SlotOk (x : Slot) : Prop :=
  (isPeered x.role = true → x.remote ≠ addrAny ∧ x.remote ≠ addrBcast) ∧
    (x.asmActive = true → x.role = .bound ∨ x.role = .connected) ∧
    (x.asmActive = false → x.asmErr = false)

/-- A frame the block may send (R40, R78, R79): IDE = 1, RTR = 0, DLC 1..8, DLC bytes, RSV = 0. -/
abbrev TxFrameOk (f : Frame) : Prop :=
  f.ide = true ∧ f.rtr = false ∧ 1 ≤ frameLen f ∧ frameLen f ≤ 8 ∧ f.data.length = frameLen f ∧
    idRsv f.id = false

/-- EV0 and EV1 hold an event's layout: the bits R22 says read 0 are 0. -/
abbrev EventRegsOk (s : State) : Prop := s.ev0 &&& 0xC000E000 = 0 ∧ s.ev1 &&& 0xFF000000 = 0

/-- The machine's invariant: what R34 to R41 say holds of every state. -/
structure Invariant (s : State) : Prop where
  /-- The parameters are legal (R6, R48). -/
  params : s.params.Legal
  /-- R8, R32, R35. -/
  shaped : Shaped s
  /-- R34 (a). -/
  ports : PortsUnique s
  /-- R34 (b). -/
  peers : PeersUnique s
  /-- R34 (c) to (e). -/
  slots : ∀ x ∈ s.slots, SlotOk x
  /-- R36, R37, R103. -/
  chains : ∀ x ∈ s.chains, ChainOk x
  /-- R38: the chunks in chains are at most the pool's NCHUNK. -/
  pool : usedChunks s ≤ s.params.nchunk
  /-- R39: at most EVQ_DEPTH entries. -/
  fifo : evCount s ≤ s.params.evqDepth
  /-- R22: an event names a slot of the table. -/
  evSlots : ∀ e ∈ s.events, e.slot.toNat < s.params.nslot
  /-- R22: the bits of EV0 and EV1 that read 0. -/
  evRegs : EventRegsOk s
  /-- XBUF's list is in canonical form (log entry 2). -/
  xbuf : Memory.wf s.xbuf = true
  /-- R157: while RUN = 1 the own address is neither "any" nor broadcast. -/
  own : s.run = true → s.ownaddr ≠ addrAny ∧ s.ownaddr ≠ addrBcast
  /-- R40 of every frame waiting in RXIN. -/
  rxin : ∀ f ∈ s.rxin, Frame.wf f = true
  /-- R40, R78 of every frame sent. -/
  txout : ∀ f ∈ s.txout, TxFrameOk f

/-- The next step is the host's write to CMD of a word that is the command `i` (R19, R67). -/
abbrev NextCommand (s : State) (i : Instr) : Prop :=
  ∃ w ts, s.agenda = .write 4 s.params.base w :: ts ∧ decode w = .command i

/-- A frame that passes the frame check and the destination check (R129, R130). -/
abbrev ForMe (s : State) (f : Frame) : Prop :=
  f.ide = true ∧ f.rtr = false ∧ 1 ≤ f.dlc.toNat ∧ f.dlc.toNat ≤ 8 ∧
    (idDst f.id = s.ownaddr ∨ idDst f.id = addrBcast)

/-- Slot `i` has this role, the frame's port and the frame's source as its remote (R132, R133). -/
abbrev PeerSlot (s : State) (f : Frame) (r : Role) (i : Nat) : Prop :=
  i < s.params.nslot ∧ (slotAt s i).role = r ∧ (slotAt s i).port = framePort f ∧
    (slotAt s i).remote = frameSrc f

/-- Slot `i` has this role and the frame's port (R132, R133). -/
abbrev PortSlot (s : State) (f : Frame) (r : Role) (i : Nat) : Prop :=
  i < s.params.nslot ∧ (slotAt s i).role = r ∧ (slotAt s i).port = framePort f

/-- Slot `i` takes the frame's data (R132): it is CONNECTED to the frame's source on its port, or it is BOUND to the
port and no slot is CONNECTED to that source on it. -/
abbrev DataSlot (s : State) (f : Frame) (i : Nat) : Prop :=
  PeerSlot s f .connected i ∨ (PortSlot s f .bound i ∧ ∀ j, ¬ PeerSlot s f .connected j)

/-- The host accesses an agenda's turn may make without a bus error (R47, R48): an aligned 32-bit access of the
window, or one that does not touch it. -/
def Turn.legal (p : Params) : Turn → Bool
  | .read width addr => wordAccess p width addr || !reaches p width addr
  | .write width addr _ => wordAccess p width addr || !reaches p width addr
  | .dispatcher => true
  | .rxFrame _ => true
  | .rxError => true
  | .blockReset => true

/-- A safe run: no turn of the agenda is a bus error (R168: "the only fault of the block"). -/
def SafeAgenda (s : State) : Prop := ∀ t ∈ s.agenda, Turn.legal s.params t = true

end Sys2Proof.Machine
end

