-- ==== Sys2Proof/Certificates/Slice0/Obligations.lean ====
section
/-! DEFINITION. Certificates/Slice0/Obligations.lean: what is claimed of the model, one proposition each, from the
numbered rules of spec/. `.next { s with … }` says the whole next state, so it is also the frame: every field not
named is unchanged. -/

open Sys2Proof Sys2Proof.Machine

/-! ### Encoding (R59 to R71) -/

/-- Decoding an encoded command gives it back, for every command and every field value (R61 to R68). -/
def Obligations.DecodeEncode : Prop := ∀ i : Instr, decode (encode i) = .command i

/-- A word the decoder accepts is the encoding of what it reads: no two words are one command, and no accepted word has
a bit the command does not say (R67, R68). -/
def Obligations.EncodeDecode : Prop := ∀ (w : Word) (i : Instr), decode w = .command i → encode i = w

/-- R67, R69: what a write of any word to CMD does. The opcode selects at most one row; a reserved opcode (listed as R69
lists them) or a nonzero must-be-zero bit changes nothing but ERR and LASTCMD; otherwise the row's command runs. -/
def Obligations.CommandWrite : Prop :=
  ∀ (s : State) (w : Word), s.params.Legal →
    let opc := w.toNat / 2 ^ 24
    let reserved := opc = 0x06 ∨ opc = 0x07 ∨ (0x0A ≤ opc ∧ opc ≤ 0x0F) ∨ (0x18 ≤ opc ∧ opc ≤ 0x1F) ∨
      (0x23 ≤ opc ∧ opc ≤ 0x2F) ∨ (0x33 ≤ opc ∧ opc ≤ 0x37) ∨ (0x39 ≤ opc ∧ opc ≤ 0x3B) ∨ 0x3D ≤ opc
    (∀ m m' : Mnemonic, opcode m = opcode m' → m = m') ∧
    (reserved ↔ ∀ m : Mnemonic, (opcode m).toNat ≠ opc) ∧
    (reserved → step (s.withFetchWord 32 w.toNat) = .next { s with lastcmd := w, err := .badcmd }) ∧
    (∀ m : Mnemonic, (opcode m).toNat = opc → w &&& rowMask m ≠ rowMatch m →
      step (s.withFetchWord 32 w.toNat) = .next { s with lastcmd := w, err := .badcmd }) ∧
    (∀ m : Mnemonic, (opcode m).toNat = opc → w &&& rowMask m = rowMatch m →
      ∃ i : Instr, i.mnemonic = m ∧ encode i = w ∧
        step (s.withFetchWord 32 w.toNat) = exec i { s with lastcmd := w })

/-- A step runs the decoded command (R16, R19): where the host's next step writes a command's word to CMD, the step is
exec of that command, with the word in LASTCMD and the turn taken off the agenda; and withFetchWord sets this up. -/
def Obligations.StepRunsDecoded : Prop :=
  (∀ (s : State) (w : Word) (ts : List Turn) (i : Instr), s.params.Legal →
    s.agenda = .write 4 (s.params.base + 0x000) w :: ts → decode w = .command i →
      step s = exec i { s with agenda := ts, lastcmd := w }) ∧
  (∀ (s : State) (w : Nat) (i : Instr), s.params.Legal → decodeTableWord 32 w = some i →
    step (s.withFetchWord 32 w) = exec i { s with lastcmd := BitVec.ofNat 32 w })

/-- The example words of the command rules decode to the commands they stand for. -/
def Obligations.SampleWords : Prop :=
  decode 0x010C0000 = .command (.hdrPack .first 3 0) ∧ decode 0x020000EF = .command (.hdrUnpack 0xEF) ∧
  decode 0x386D0003 = .command (.txSend .single 3 1 3) ∧ decode 0x09000009 = .command (.crcUpdate 9) ∧
  decode 0x10100040 = .command (.bufInit 1 64) ∧ decode 0x13350000 = .command (.bufMove 3 5) ∧
  decode 0x20040103 = .command (.slotSet 0 4 .stream 3) ∧ decode 0x3C000000 = .command .evPop ∧
  decode 0x30000000 = .command .ifUp ∧ decode 0x06000000 = .reservedOpcode 0x06 ∧
  decode 0x00000001 = .nonzeroReservedBits .NOP ∧ decode 0x01000001 = .nonzeroReservedBits .HDR_PACK

/-- The assembler of R71: it inverts the written form, and fails exactly on a wrong number of fields or on a field that
does not fit its width. -/
def Obligations.Assembler : Prop :=
  (∀ i : Instr, assemble (written i) = some i) ∧
  (∀ (c : Written) (i : Instr), assemble c = some i → written i = c) ∧
  (∀ c : Written, assemble c = none ↔
    ¬(c.fields.length = (fieldWidths c.mnemonic).length ∧
      ∀ k < c.fields.length, c.fields.getD k 0 < 2 ^ (fieldWidths c.mnemonic).getD k 0))

/-! ### The host's side (R18 to R30, R47 to R49, R168) -/

/-- R168: an access of the window that is not an aligned 32-bit one is a bus error; nothing else faults; writes to
read-only registers and reserved offsets are ignored. No step is refused. -/
def Obligations.BusFaults : Prop :=
  (∀ (s : State) (width addr : Nat) (v : Word) (ts : List Turn),
    (s.agenda = .read width addr :: ts ∨ s.agenda = .write width addr v :: ts) →
    s.params.base ≤ addr → addr < s.params.base + 0x200 → ¬(width = 4 ∧ addr % 4 = 0) → width ≠ 0 →
      step s = .fault .busError) ∧
  (∀ (s : State) (r : Fault), step s = .fault r →
    ∃ (width addr : Nat) (v : Word) (ts : List Turn),
      (s.agenda = .read width addr :: ts ∨ s.agenda = .write width addr v :: ts) ∧
      ¬(width = 4 ∧ addr % 4 = 0 ∧ s.params.base ≤ addr ∧ addr < s.params.base + 0x200)) ∧
  (∀ (s : State) (off : Nat) (v : Word) (ts : List Turn), s.params.Legal → off < 0x100 → off % 4 = 0 →
    off ≠ 0x000 → off ≠ 0x004 → off ≠ 0x008 → off ≠ 0x040 →
    s.agenda = .write 4 (s.params.base + off) v :: ts → step s = .next { s with agenda := ts }) ∧
  (∀ (s : State) (r : Refusal), step s ≠ .refused r)

/-- R48: an access wholly outside the window does not reach the block. One that touches the window without lying in
it is a bus error (log entry 6, the model's reading of R47 with R48). -/
def Obligations.OutsideWindow : Prop :=
  ∀ (s : State) (width addr : Nat) (v : Word) (ts : List Turn),
    (s.agenda = .read width addr :: ts ∨ s.agenda = .write width addr v :: ts) →
    (addr + width ≤ s.params.base ∨ s.params.base + 0x200 ≤ addr → step s = .next { s with agenda := ts }) ∧
    (addr < s.params.base → s.params.base < addr + width → step s = .fault .busError)

/-- R17 to R30, R49: an aligned read of any offset of the window returns the word there and changes nothing else; a
second read returns the same. `readWindow` is the word the statements on STATUS, FREECHUNKS, CFG, IRQEN and XBUF speak
of. -/
def Obligations.RegisterReads : Prop :=
  ∀ (s : State) (off : Nat) (ts : List Turn), s.params.Legal → off < 0x200 → off % 4 = 0 →
    s.agenda = .read 4 (s.params.base + off) :: ts →
    ∃ v : Word, step s = .next { s with agenda := ts, readData := some v } ∧ v = readWindow off s ∧
      (off = 0x000 → v = s.lastcmd) ∧ (off = 0x004 → v = s.arg0) ∧ (off = 0x008 → v = s.arg1) ∧
      (off = 0x00C → v = s.res0) ∧ (off = 0x010 → v = s.res1) ∧ (off = 0x018 → v.toNat = s.crcacc.toNat) ∧
      (off = 0x01C → v = s.ev0) ∧ (off = 0x020 → v = s.ev1) ∧ (off = 0x024 → v = s.rxframes) ∧
      (off = 0x028 → v = s.rxbytes) ∧ (off = 0x02C → v = s.txframes) ∧ (off = 0x030 → v = s.txbytes) ∧
      (off = 0x034 → v = s.rxdrop) ∧ (off = 0x014 → v = statusWord s) ∧ (off = 0x038 → v = freeChunksWord s) ∧
      (off = 0x03C → v = cfgWord s) ∧ (off = 0x040 → v = irqenWord s) ∧ (0x044 ≤ off → off < 0x100 → v = 0) ∧
      (∀ ts', ts = .read 4 (s.params.base + off) :: ts' →
        step { s with agenda := ts, readData := some v } = .next { s with agenda := ts', readData := some v })

/-- R20: STATUS as a number, field by field; EVNE, EVFULL and EVCOUNT are views of the event FIFO. -/
def Obligations.StatusRead : Prop :=
  ∀ s : State, Invariant s →
    (readWindow 0x014 s).toNat =
      (errCode s.err).toNat + 2 ^ 4 * s.run.toNat + 2 ^ 5 * s.rxerr.toNat +
        2 ^ 6 * (if s.events = [] then 0 else 1) +
        2 ^ 7 * (if s.events.length = s.params.evqDepth then 1 else 0) + 2 ^ 8 * s.events.length +
        2 ^ 16 * s.ownaddr.toNat

/-- R26, R27: FREECHUNKS counts the chunks in no chain, NCHUNK after reset; CFG shows the parameters; both ignore
writes. -/
def Obligations.FreechunksAndCfg : Prop :=
  (∀ s : State, Invariant s →
    (readWindow 0x038 s).toNat + (s.chains.map (fun x => x.chunks.length)).sum = s.params.nchunk ∧
    (readWindow 0x03C s).toNat =
      s.params.nslot + 2 ^ 8 * s.params.evqDepth + 2 ^ 16 * s.params.nchunk) ∧
  (∀ p : Params, p.Legal → (readWindow 0x038 (State.powerOn p)).toNat = p.nchunk) ∧
  readWindow 0x03C State.reset = 0x00401008 ∧
  (∀ (s : State) (w : Word), writeWindow 0x038 w s = .next s ∧ writeWindow 0x03C w s = .next s)

/-- R28, R172: IRQEN keeps its two enable bits, and IRQ is a function of the current state: pending events where EVIE,
an RX device error where ERRIE. EV_POP of the last event and IF_UP lower it. -/
def Obligations.IrqenAndIrq : Prop :=
  (∀ (s : State) (w : Word) (ts : List Turn), s.params.Legal →
    s.agenda = .write 4 (s.params.base + 0x040) w :: ts →
      step s = .next { s with agenda := ts, evie := decide (w.toNat % 2 = 1), errie := decide (w.toNat / 2 % 2 = 1) }) ∧
  (∀ (s : State) (w : Word) (t : State), writeWindow 0x040 w s = .next t →
    (readWindow 0x040 t).toNat = w.toNat % 4) ∧
  readWindow 0x040 State.reset = 0 ∧
  (∀ s : State, irq s = true ↔ (s.evie = true ∧ 0 < s.events.length) ∨ (s.errie = true ∧ s.rxerr = true)) ∧
  (∀ s t : State, s.events.length ≤ 1 → s.rxerr = false → exec .evPop s = .next t → irq t = false) ∧
  (∀ s t : State, s.events = [] → exec .ifUp s = .next t → t.err = .ok → irq t = false)

/-- R29, R46: a word written at 0x100 + 4j is XBUF bytes 4j to 4j+3, low byte first, and no other byte and no other
state changes; a word read there is made of the same bytes. -/
def Obligations.XbufWindow : Prop :=
  ∀ (s : State) (j : Nat) (ts : List Turn), s.params.Legal → j < 64 →
    (∀ w : Word, s.agenda = .write 4 (s.params.base + 0x100 + 4 * j) w :: ts →
      ∃ t : State, step s = .next t ∧ t = { s with agenda := ts, xbuf := t.xbuf } ∧
        (∀ k < 4, (xread t (4 * j + k)).toNat = w.toNat / 2 ^ (8 * k) % 2 ^ 8) ∧
        (∀ b, b / 4 ≠ j → xread t b = xread s b) ∧ readWindow (0x100 + 4 * j) t = w) ∧
    (s.agenda = .read 4 (s.params.base + 0x100 + 4 * j) :: ts →
      ∃ v : Word, step s = .next { s with agenda := ts, readData := some v } ∧
        v.toNat = (xread s (4 * j)).toNat + 2 ^ 8 * (xread s (4 * j + 1)).toNat +
          2 ^ 16 * (xread s (4 * j + 2)).toNat + 2 ^ 24 * (xread s (4 * j + 3)).toNat)

/-- R30: reserved offsets read 0 and ignore writes; the reserved bits of the defined registers read 0, and a write's
reserved bits change nothing. -/
def Obligations.ReservedBits : Prop :=
  (∀ (s : State) (off : Nat) (w : Word), 0x044 ≤ off → off < 0x100 → readWindow off s = 0 ∧
    writeWindow off w s = .next s) ∧
  (∀ s : State, Invariant s →
    (readWindow 0x014 s).toNat < 2 ^ 30 ∧ (readWindow 0x018 s).toNat < 2 ^ 16 ∧
    (readWindow 0x01C s).toNat < 2 ^ 30 ∧ (readWindow 0x01C s).toNat / 2 ^ 13 % 2 ^ 3 = 0 ∧
    (readWindow 0x020 s).toNat < 2 ^ 24 ∧ (readWindow 0x038 s).toNat < 2 ^ 16 ∧
    (readWindow 0x03C s).toNat / 2 ^ 4 % 2 ^ 4 = 0 ∧ (readWindow 0x040 s).toNat < 2 ^ 2) ∧
  (∀ (s : State) (w w' : Word), w.toNat % 4 = w'.toNat % 4 → writeWindow 0x040 w s = writeWindow 0x040 w' s)

/-- What the host writes with no command: ARG0 and ARG1 take the word (R17, R49). -/
def Obligations.ArgumentWrites : Prop :=
  ∀ (s : State) (w : Word) (ts : List Turn), s.params.Legal →
    (s.agenda = .write 4 (s.params.base + 0x004) w :: ts → step s = .next { s with agenda := ts, arg0 := w }) ∧
    (s.agenda = .write 4 (s.params.base + 0x008) w :: ts → step s = .next { s with agenda := ts, arg1 := w })

/-! ### Codec and transmit (R73 to R94) -/

/-- R73, R74: the header byte's layout and the type codes; packing and unpacking are inverse both ways. -/
def Obligations.HeaderByte : Prop :=
  (∀ (ty : FrameType) (port : Port) (seq : Seq),
    (headerByte ty port seq).toNat = 32 * (frameTypeCode ty).toNat + 4 * port.toNat + seq.toNat ∧
    headerType (headerByte ty port seq) = ty ∧ headerPort (headerByte ty port seq) = port ∧
    headerSeq (headerByte ty port seq) = seq) ∧
  (∀ h : Byte, (frameTypeCode (headerType h)).toNat = h.toNat / 32 ∧ (headerPort h).toNat = h.toNat / 4 % 8 ∧
    (headerSeq h).toNat = h.toNat % 4 ∧ headerByte (headerType h) (headerPort h) (headerSeq h) = h) ∧
  [FrameType.first, .next, .last, .single, .connect, .disconnect, .stat, .ack].map
    (fun ty => (frameTypeCode ty).toNat) = [0, 1, 2, 3, 4, 5, 6, 7] ∧
  (∀ ty : FrameType, (frameTypeCode ty).getLsbD 2 = false ↔
    ty = .first ∨ ty = .next ∨ ty = .last ∨ ty = .single)

/-- R89, R90: HDR_PACK and HDR_UNPACK, their words, results and the round trip. -/
def Obligations.HeaderCommands : Prop :=
  (∀ (ty : FrameType) (port : Port) (seq : Seq) (s : State),
    (encode (.hdrPack ty port seq)).toNat =
      0x01000000 + (frameTypeCode ty).toNat * 2 ^ 21 + port.toNat * 2 ^ 18 + seq.toNat * 2 ^ 16 ∧
    exec (.hdrPack ty port seq) s =
      .next { s with err := .ok,
                     res0 := BitVec.ofNat 32 (32 * (frameTypeCode ty).toNat + 4 * port.toNat + seq.toNat) }) ∧
  (∀ (b : Byte) (s : State),
    (encode (.hdrUnpack b)).toNat = 0x02000000 + b.toNat ∧
    exec (.hdrUnpack b) s =
      .next { s with err := .ok,
                     res0 := BitVec.ofNat 32
                       (b.toNat / 32 + 2 ^ 8 * (b.toNat / 4 % 8) + 2 ^ 16 * (b.toNat % 4)) }) ∧
  (∀ (ty : FrameType) (port : Port) (seq : Seq) (s t u : State),
    exec (.hdrPack ty port seq) s = .next t → exec (.hdrUnpack (t.res0.setWidth 8)) t = .next u →
      u.res0.toNat = (frameTypeCode ty).toNat + 2 ^ 8 * port.toNat + 2 ^ 16 * seq.toNat)

/-- R76, R77: the identifier's layout, and the single AND and compare tests of destination. -/
def Obligations.Identifier : Prop :=
  (∀ dst src : BusAddr, (packId dst src).toNat = 2 ^ 14 * dst.toNat + src.toNat ∧
    idDst (packId dst src) = dst ∧ idSrc (packId dst src) = src ∧ idRsv (packId dst src) = false) ∧
  (∀ id : CanId, id.toNat = 2 ^ 28 * (idRsv id).toNat + 2 ^ 14 * (idDst id).toNat + (idSrc id).toNat) ∧
  (∀ (id : CanId) (own : BusAddr),
    (idDst id = own ↔ id &&& dstMask = own.setWidth 29 <<< 14) ∧
    (idDst id = addrBcast ↔ id &&& dstMask = 0x0FFFC000)) ∧
  dstMask = 0x0FFFC000 ∧ srcMask = 0x00003FFF ∧ rsvMask = 0x10000000 ∧
  (∀ id : CanId, (idSrc id).setWidth 29 = id &&& srcMask ∧ (idRsv id = true ↔ id &&& rsvMask = rsvMask))

/-- R91, R92: ID_PACK and ID_UNPACK, and the round trip. -/
def Obligations.IdCommands : Prop :=
  (encode .idPack).toNat = 0x03000000 ∧ (encode .idUnpack).toNat = 0x04000000 ∧
  (∀ s : State,
    exec .idPack s =
      .next { s with err := .ok,
                     res0 := BitVec.ofNat 32 (s.arg0.toNat % 2 ^ 14 * 2 ^ 14 + s.arg1.toNat % 2 ^ 14) }) ∧
  (∀ s : State,
    exec .idUnpack s =
      .next { s with err := .ok, res0 := BitVec.ofNat 32 (s.arg0.toNat / 2 ^ 14 % 2 ^ 14),
                     res1 := BitVec.ofNat 32
                       (s.arg0.toNat % 2 ^ 14 + s.arg0.toNat / 2 ^ 28 % 2 * 2 ^ 16) }) ∧
  (∀ s t u : State, exec .idPack s = .next t → exec .idUnpack { t with arg0 := t.res0 } = .next u →
    u.res0.toNat = s.arg0.toNat % 2 ^ 14 ∧ u.res1.toNat = s.arg1.toNat % 2 ^ 14)

/-- R93: ID_MATCH, whatever RUN is. -/
def Obligations.IdMatch : Prop :=
  (encode .idMatch).toNat = 0x05000000 ∧
  ∀ s : State,
    let d := s.arg0.toNat / 2 ^ 14 % 2 ^ 14
    let me := if d = s.ownaddr.toNat then 1 else 0
    let bc := if d = 0x3FFF then 1 else 0
    let accepted := if d = s.ownaddr.toNat ∨ d = 0x3FFF then 1 else 0
    exec .idMatch s = .next { s with err := .ok, res0 := BitVec.ofNat 32 (me + 2 * bc + 4 * accepted) }

/-- R78: frames are sent with RSV = 0, the receive path does not look at it, and ID_UNPACK reports it. -/
def Obligations.ReservedIdBit : Prop :=
  (∀ (s t : State) (f : Frame), step s = .next t → t.txout = s.txout ++ [f] → idRsv f.id = false) ∧
  (∀ (s : State) (f : Frame), receive f s = receive { f with id := f.id ^^^ rsvMask } s) ∧
  (∀ s t : State, exec .idUnpack s = .next t →
    t.res1.getLsbD 16 = idRsv (s.arg0.setWidth 29))

/-- R94, R153: TX_SEND. Its checks in order, the frame it offers, and what an accepted and a refused frame leave; the
environment's answer can be either one in any state. How the model records the answers (`emits`, `txAnswers`) is its
own (log entry 3). -/
def Obligations.TxSend : Prop :=
  ∀ (ty : FrameType) (port : Port) (seq : Seq) (len : BitVec 4) (s : State),
    (encode (.txSend ty port seq len)).toNat = 0x38000000 + (frameTypeCode ty).toNat * 2 ^ 21 +
      port.toNat * 2 ^ 18 + seq.toNat * 2 ^ 16 + len.toNat ∧
    (∀ (b : Bool) (bs : List Bool), txAnswer { s with txAnswers := b :: bs } = b) ∧
    (7 < len.toNat ∨ 0x3FFF < s.arg0.toNat → exec (.txSend ty port seq len) s = .next { s with err := .badarg }) ∧
    (len.toNat ≤ 7 → s.arg0.toNat ≤ 0x3FFF → s.run = false →
      exec (.txSend ty port seq len) s = .next { s with err := .notup }) ∧
    (len.toNat ≤ 7 → s.arg0.toNat ≤ 0x3FFF → s.run = true → txAnswer s = false →
      exec (.txSend ty port seq len) s =
        .next { s with err := .ioerr, emits := s.emits + 1, txAnswers := s.txAnswers.tail }) ∧
    (len.toNat ≤ 7 → s.arg0.toNat ≤ 0x3FFF → s.run = true → txAnswer s = true →
      ∃ f : Frame, f.id.toNat = s.arg0.toNat * 2 ^ 14 + s.ownaddr.toNat ∧ f.ide = true ∧ f.rtr = false ∧
        f.dlc.toNat = 1 + len.toNat ∧
        f.data = BitVec.ofNat 8 ((frameTypeCode ty).toNat * 32 + port.toNat * 4 + seq.toNat) ::
          (List.range len.toNat).map (xread s) ∧
        exec (.txSend ty port seq len) s =
          .next { s with err := .ok, txout := s.txout ++ [f], txframes := s.txframes + 1,
                         txbytes := s.txbytes + BitVec.ofNat 32 (1 + len.toNat),
                         emits := s.emits + 1, txAnswers := s.txAnswers.tail })

/-- R161: the block never sends a frame by itself. Only a host's TX_SEND adds to TXOUT, one frame at its end (R54). -/
def Obligations.OnlyTxSendTransmits : Prop :=
  ∀ s t : State, step s = .next t → t.txout ≠ s.txout →
    ∃ (ty : FrameType) (port : Port) (seq : Seq) (len : BitVec 4) (f : Frame),
      NextCommand s (.txSend ty port seq len) ∧ t.txout = s.txout ++ [f]

/-! ### CRC (R95 to R102) -/

/-- R98, R99: the table form is the bitwise form, and the table is R99's definition of it. -/
def Obligations.CrcTable : Prop :=
  (∀ (c : Half) (b : Byte), crcUpdateByTable c b = crcUpdate c b) ∧
  crcTable.length = 256 ∧
  (∀ i < 256, crcTable.getD i 0 = crcUpdate (BitVec.ofNat 16 (256 * i)) 0)

/-- R101, R102: CRC_INIT and CRC_UPDATE. -/
def Obligations.CrcCommands : Prop :=
  (encode .crcInit).toNat = 0x08000000 ∧
  (∀ s : State, exec .crcInit s = .next { s with err := .ok, crcacc := 0xFFFF }) ∧
  ∀ (len : Half) (s : State),
    (encode (.crcUpdate len)).toNat = 0x09000000 + len.toNat ∧
    (256 < s.arg0.toNat + len.toNat → exec (.crcUpdate len) s = .next { s with err := .badarg }) ∧
    (s.arg0.toNat + len.toNat ≤ 256 →
      ∃ c : Half, c = (List.range len.toNat).foldl (fun c k => crcUpdate c (xread s (s.arg0.toNat + k))) s.crcacc ∧
        exec (.crcUpdate len) s = .next { s with err := .ok, crcacc := c, res0 := BitVec.ofNat 32 c.toNat })

/-- R100, R102: CRC_UPDATEs compose: two over adjoining ranges are one over the whole, and folding after CRC16 of a
prefix gives CRC16 of the whole. -/
def Obligations.CrcComposes : Prop :=
  (∀ a b : List Byte, b.foldl crcUpdate (crc16 a) = crc16 (a ++ b)) ∧
  (∀ (m n : Nat) (s t u : State), s.arg0.toNat + m + n ≤ 256 →
    exec (.crcUpdate (BitVec.ofNat 16 m)) s = .next t →
    exec (.crcUpdate (BitVec.ofNat 16 n)) { t with arg0 := BitVec.ofNat 32 (s.arg0.toNat + m) } = .next u →
      exec (.crcUpdate (BitVec.ofNat 16 (m + n))) s = .next { u with arg0 := s.arg0 })

/-! ### Buffer chains (R103 to R120) -/

/-- R104: chain_write. FULL before NOMEM, nothing changed by either; else the bytes are at the chain's end, the last
chunk filled first and then new chunks of 32 bytes, and no other chain changes. Every chunk of the chain is given: the
ones before the last are as they were, the former last one keeps its SEEK and takes the first bytes, and the m-th new
one holds the next 32 bytes, or what is left. -/
def Obligations.ChainWrite : Prop :=
  ∀ (s : State) (c : Nat) (b : List Byte), Invariant s → c < 2 * s.params.nslot →
    let ks := (chainAt s c).chunks
    let space := if ks = [] then 0 else 32 - ((ks.getLast?.map (fun k => k.data.length)).getD 0)
    let chunks := (b.length - space + 31) / 32
    (chainWrite c b s = .full ↔ (chainAt s c).maxcap.toNat < totalSize s c + b.length) ∧
    (chainWrite c b s = .nomem ↔ totalSize s c + b.length ≤ (chainAt s c).maxcap.toNat ∧
      freeChunks s < chunks) ∧
    (∀ t : State, chainWrite c b s = .ok t →
      t = { s with chains := t.chains } ∧ (∀ d, d ≠ c → chainAt t d = chainAt s d) ∧
      (chainAt t c).maxcap = (chainAt s c).maxcap ∧ chainBytes t c = chainBytes s c ++ b ∧
      (chainAt t c).chunks.length = ks.length + chunks ∧ freeChunks t + chunks = freeChunks s ∧
      (∀ j, j + 1 < ks.length → (chainAt t c).chunks[j]? = ks[j]?) ∧
      (∀ k, ks.getLast? = some k → (chainAt t c).chunks[ks.length - 1]? =
        some { data := k.data ++ b.take (min space b.length), seek := k.seek }) ∧
      (∀ m < chunks, (chainAt t c).chunks[ks.length + m]? =
        some { data := (b.drop (space + 32 * m)).take 32, seek := 0 }))

/-- R113, R117: BUF_INIT and BUF_CLEAR. -/
def Obligations.BufInitAndClear : Prop :=
  ∀ (ch : BitVec 4) (m : Half) (s : State),
    let c := ch.toNat
    let isLocked := c % 2 = 0 ∧ (slotAt s (c / 2)).asmActive = true
    (encode (.bufInit ch m)).toNat = 0x10000000 + c * 2 ^ 20 + m.toNat ∧
    (encode (.bufClear ch)).toNat = 0x14000000 + c * 2 ^ 20 ∧
    (2 * s.params.nslot ≤ c →
      exec (.bufInit ch m) s = .next { s with err := .badarg } ∧
      exec (.bufClear ch) s = .next { s with err := .badarg }) ∧
    (c < 2 * s.params.nslot → isLocked →
      exec (.bufInit ch m) s = .next { s with err := .busy } ∧
      exec (.bufClear ch) s = .next { s with err := .busy }) ∧
    (c < 2 * s.params.nslot → ¬isLocked →
      exec (.bufInit ch m) s =
        .next { s with err := .ok, chains := s.chains.set c { maxcap := m, chunks := [] } } ∧
      exec (.bufClear ch) s =
        .next { s with err := .ok, chains := s.chains.set c { chainAt s c with chunks := [] } })

/-- R114: BUF_WRITE. Its checks in order; accepted, the XBUF range is at the chain's end, the chains are those
chain_write leaves (ChainWrite), and RES0 is the new total. -/
def Obligations.BufWrite : Prop :=
  ∀ (ch : BitVec 4) (len : Half) (s : State), Invariant s →
    let c := ch.toNat
    let n := len.toNat
    let off := s.arg0.toNat
    let isLocked := c % 2 = 0 ∧ (slotAt s (c / 2)).asmActive = true
    let full := (chainAt s c).maxcap.toNat < totalSize s c + n
    let needed := need (chainAt s c).chunks n
    (encode (.bufWrite ch len)).toNat = 0x11000000 + c * 2 ^ 20 + n ∧
    (2 * s.params.nslot ≤ c ∨ 256 < off + n → exec (.bufWrite ch len) s = .next { s with err := .badarg }) ∧
    (c < 2 * s.params.nslot → off + n ≤ 256 → isLocked →
      exec (.bufWrite ch len) s = .next { s with err := .busy }) ∧
    (c < 2 * s.params.nslot → off + n ≤ 256 → ¬isLocked → full →
      exec (.bufWrite ch len) s = .next { s with err := .full }) ∧
    (c < 2 * s.params.nslot → off + n ≤ 256 → ¬isLocked → ¬full → freeChunks s < needed →
      exec (.bufWrite ch len) s = .next { s with err := .nomem }) ∧
    (c < 2 * s.params.nslot → off + n ≤ 256 → ¬isLocked → ¬full → needed ≤ freeChunks s →
      ∃ t : State, exec (.bufWrite ch len) s = .next t ∧
        t = { s with err := .ok, res0 := BitVec.ofNat 32 (totalSize s c + n), chains := t.chains } ∧
        (∀ d, d ≠ c → chainAt t d = chainAt s d) ∧ (chainAt t c).maxcap = (chainAt s c).maxcap ∧
        chainBytes t c = chainBytes s c ++ (List.range n).map (fun k => xread s (off + k)) ∧
        chainWrite c ((List.range n).map (fun k => xread s (off + k))) s = .ok { s with chains := t.chains } ∧
        freeChunks t + needed = freeChunks s)

/-- R115: BUF_READ. The oldest bytes go to XBUF from ARG0 on, in order; nothing else of XBUF changes. Of the chain's
chunks the first `p`, read to their ends, are unlinked and back in the pool (R105, R109), and the next has its SEEK moved
by the `r` bytes read of it, which are not all it has. -/
def Obligations.BufRead : Prop :=
  ∀ (ch : BitVec 4) (len : Half) (s : State), Invariant s →
    let c := ch.toNat
    let n := len.toNat
    let off := s.arg0.toNat
    let isLocked := c % 2 = 0 ∧ (slotAt s (c / 2)).asmActive = true
    let got := min n (totalSize s c)
    let ks := (chainAt s c).chunks
    (encode (.bufRead ch len)).toNat = 0x12000000 + c * 2 ^ 20 + n ∧
    (2 * s.params.nslot ≤ c ∨ 256 < off + n → exec (.bufRead ch len) s = .next { s with err := .badarg }) ∧
    (c < 2 * s.params.nslot → off + n ≤ 256 → isLocked →
      exec (.bufRead ch len) s = .next { s with err := .busy }) ∧
    (c < 2 * s.params.nslot → off + n ≤ 256 → ¬isLocked →
      ∃ t : State, exec (.bufRead ch len) s = .next t ∧
        t = { s with err := .ok, res0 := BitVec.ofNat 32 got, res1 := BitVec.ofNat 32 (totalSize s c - got),
                     chains := t.chains, xbuf := t.xbuf } ∧
        (∀ d, d ≠ c → chainAt t d = chainAt s d) ∧ (chainAt t c).maxcap = (chainAt s c).maxcap ∧
        chainBytes t c = (chainBytes s c).drop got ∧
        (∀ k < got, (chainBytes s c)[k]? = some (xread t (off + k))) ∧
        (∀ b, b < off ∨ off + got ≤ b → xread t b = xread s b) ∧
        ∃ p r : Nat, p ≤ ks.length ∧ chunksTotal (ks.take p) + r = got ∧
          (∀ k, ks[p]? = some k → k.seek + r < k.data.length) ∧
          (chainAt t c).chunks = (ks.drop p).modifyHead (fun k => { k with seek := k.seek + r }) ∧
          freeChunks t = freeChunks s + p)

/-- R116: BUF_MOVE. All of src's chunks go after dst's, linked and not merged (R106); both MAXCAPs and FREECHUNKS
stay. -/
def Obligations.BufMove : Prop :=
  ∀ (dst src : BitVec 4) (s : State), Invariant s →
    let d := dst.toNat
    let x := src.toNat
    let bad := 2 * s.params.nslot ≤ d ∨ 2 * s.params.nslot ≤ x ∨ d = x
    let isLocked := fun c : Nat => c % 2 = 0 ∧ (slotAt s (c / 2)).asmActive = true
    let full := totalSize s x ≠ 0 ∧ (chainAt s d).maxcap.toNat < totalSize s d + totalSize s x
    (encode (.bufMove dst src)).toNat = 0x13000000 + d * 2 ^ 20 + x * 2 ^ 16 ∧
    (bad → exec (.bufMove dst src) s = .next { s with err := .badarg }) ∧
    (¬bad → isLocked d ∨ isLocked x → exec (.bufMove dst src) s = .next { s with err := .busy }) ∧
    (¬bad → ¬isLocked d → ¬isLocked x → full → exec (.bufMove dst src) s = .next { s with err := .full }) ∧
    (¬bad → ¬isLocked d → ¬isLocked x → ¬full →
      ∃ t : State, exec (.bufMove dst src) s = .next t ∧
        t = { s with err := .ok, res0 := BitVec.ofNat 32 (totalSize s d + totalSize s x), chains := t.chains } ∧
        (∀ c, c ≠ d → c ≠ x → chainAt t c = chainAt s c) ∧ (chainAt t d).maxcap = (chainAt s d).maxcap ∧
        (chainAt t x).maxcap = (chainAt s x).maxcap ∧ chainBytes t d = chainBytes s d ++ chainBytes s x ∧
        chainBytes t x = [] ∧ freeChunks t = freeChunks s ∧
        (chainAt t d).chunks = (chainAt s d).chunks ++ (chainAt s x).chunks ∧ (chainAt t x).chunks = [] ∧
        (totalSize s x = 0 → chainAt t d = chainAt s d))

/-- R118, R119, R120: the queries, locked or not. -/
def Obligations.BufQueries : Prop :=
  ∀ (ch : BitVec 4) (s : State), Invariant s →
    let c := ch.toNat
    let cap := (chainAt s c).maxcap.toNat
    let total := totalSize s c
    (encode (.bufIsfull ch)).toNat = 0x15000000 + c * 2 ^ 20 ∧
    (encode (.bufAvail ch)).toNat = 0x16000000 + c * 2 ^ 20 ∧
    (encode (.bufSize ch)).toNat = 0x17000000 + c * 2 ^ 20 ∧
    (2 * s.params.nslot ≤ c →
      exec (.bufIsfull ch) s = .next { s with err := .badarg } ∧
      exec (.bufAvail ch) s = .next { s with err := .badarg } ∧
      exec (.bufSize ch) s = .next { s with err := .badarg }) ∧
    (c < 2 * s.params.nslot → ∃ avail size : Word,
      exec (.bufIsfull ch) s = .next { s with err := .ok, res0 := if total = cap then 1 else 0 } ∧
      exec (.bufAvail ch) s = .next { s with err := .ok, res0 := avail } ∧
      exec (.bufSize ch) s = .next { s with err := .ok, res0 := size } ∧
      avail.toNat + size.toNat = cap ∧ size.toNat = (chainBytes s c).length)

/-- A BUF_WRITE of n bytes to an empty chain and a BUF_READ of n bytes at any XBUF offset give the bytes back, and
leave the chain empty (R103, R114, R115). -/
def Obligations.WriteThenRead : Prop :=
  ∀ (ch : BitVec 4) (len : Half) (dest : Word) (s t u : State), Invariant s →
    (chainAt s ch.toNat).chunks = [] → dest.toNat + len.toNat ≤ 256 →
    exec (.bufWrite ch len) s = .next t → t.err = .ok →
    exec (.bufRead ch len) { t with arg0 := dest } = .next u →
      u.err = .ok ∧ u.res0.toNat = len.toNat ∧ u.res1 = 0 ∧ (chainAt u ch.toNat).chunks = [] ∧
      freeChunks u = freeChunks s ∧
      ∀ k < len.toNat, xread u (dest.toNat + k) = xread s (s.arg0.toNat + k)

/-! ### Slots, interface and events (R121 to R126, R151, R156 to R159) -/

/-- R122, R123, R124: SLOT_SET. Its checks in order, and the whole effect. That ASM_SEQ, ASM_SRC, ASM_SIZE, ASM_CRC_EXP
and ASM_CRC keep their values is read from the pseudocode (log entry 10, DEDUCED). -/
def Obligations.SlotSet : Prop :=
  ∀ (slot : BitVec 4) (role : BitVec 3) (proto : Proto) (port : Port) (s : State), Invariant s →
    let i := slot.toNat
    let inst := Instr.slotSet slot role proto port
    let bad := s.params.nslot ≤ i ∨ role.toNat = 0 ∨ 5 < role.toNat ∨ 0x3FFF < s.arg0.toNat ∨
      ((role.toNat = 3 ∨ role.toNat = 4) ∧ (s.arg0.toNat = 0 ∨ s.arg0.toNat = 0x3FFF))
    let listens := fun r : Nat => r = 1 ∨ r = 2
    let peers := fun r : Nat => r = 3 ∨ r = 4
    let clash := ∃ j < s.params.nslot, j ≠ i ∧ (slotAt s j).port = port ∧
      ((listens role.toNat ∧ listens (roleCode (slotAt s j).role).toNat) ∨
        (peers role.toNat ∧ peers (roleCode (slotAt s j).role).toNat ∧
          (slotAt s j).remote.toNat = s.arg0.toNat))
    (encode inst).toNat = 0x20000000 + i * 2 ^ 20 + role.toNat * 2 ^ 16 +
      (if proto = .stream then 1 else 0) * 2 ^ 8 + port.toNat ∧
    (bad → exec inst s = .next { s with err := .badarg }) ∧
    (¬bad → clash → exec inst s = .next { s with err := .portbusy }) ∧
    (¬bad → ¬clash → ∃ (r : Role) (remote : BusAddr),
      (roleCode r).toNat = role.toNat ∧ remote.toNat = s.arg0.toNat ∧
      exec inst s =
        .next { s with
          err := .ok
          slots := s.slots.set i
            { slotAt s i with
              role := r, proto := proto, port := port, remote := remote, rxSeq := 0, asmActive := false,
              asmErr := false }
          chains := s.chains.set (2 * i) { chainAt s (2 * i) with chunks := [] } })

/-- R122, R125: SLOT_FREE. The slot is FREE, both its chains are empty with their MAXCAP kept; the queued events
stay. That ASM_SEQ, ASM_SRC, ASM_SIZE, ASM_CRC_EXP and ASM_CRC keep their values is read from the pseudocode (log entry
10, DEDUCED). -/
def Obligations.SlotFree : Prop :=
  ∀ (slot : BitVec 4) (s : State), Invariant s →
    let i := slot.toNat
    (encode (.slotFree slot)).toNat = 0x21000000 + i * 2 ^ 20 ∧
    (s.params.nslot ≤ i → exec (.slotFree slot) s = .next { s with err := .badarg }) ∧
    (i < s.params.nslot →
      exec (.slotFree slot) s =
        .next { s with
          err := .ok
          slots := s.slots.set i
            { slotAt s i with
              role := .free, proto := .dgram, port := 0, remote := 0, rxSeq := 0, asmActive := false,
              asmErr := false }
          chains := (s.chains.set (2 * i) { chainAt s (2 * i) with chunks := [] }).set (2 * i + 1)
            { chainAt s (2 * i + 1) with chunks := [] } })

/-- R126: SLOT_GET. -/
def Obligations.SlotGet : Prop :=
  ∀ (slot : BitVec 4) (s : State),
    let x := slotAt s slot.toNat
    (encode (.slotGet slot)).toNat = 0x22000000 + slot.toNat * 2 ^ 20 ∧
    (s.params.nslot ≤ slot.toNat → exec (.slotGet slot) s = .next { s with err := .badarg }) ∧
    (slot.toNat < s.params.nslot →
      exec (.slotGet slot) s =
        .next { s with
          err := .ok
          res0 := BitVec.ofNat 32
            ((roleCode x.role).toNat + 2 ^ 3 * (if x.proto = .stream then 1 else 0) +
              2 ^ 4 * x.port.toNat + 2 ^ 7 * x.asmActive.toNat + 2 ^ 8 * x.asmErr.toNat +
              2 ^ 9 * x.asmSeq.toNat + 2 ^ 11 * x.rxSeq.toNat + 2 ^ 14 * x.remote.toNat)
          res1 := BitVec.ofNat 32 (x.asmSize.toNat + 2 ^ 16 * x.asmCrc.toNat) })

/-- R156 to R159: NOP, IF_UP, IF_DOWN and CNT_CLEAR. -/
def Obligations.InterfaceCommands : Prop :=
  (encode .nop).toNat = 0 ∧ (encode .ifUp).toNat = 0x30000000 ∧ (encode .ifDown).toNat = 0x31000000 ∧
  (encode .cntClear).toNat = 0x32000000 ∧
  ∀ s : State,
    exec .nop s = .next { s with err := .ok } ∧
    (s.arg0.toNat = 0 ∨ 0x3FFF ≤ s.arg0.toNat → exec .ifUp s = .next { s with err := .badarg }) ∧
    (s.arg0.toNat ≠ 0 → s.arg0.toNat < 0x3FFF →
      ∃ a : BusAddr, a.toNat = s.arg0.toNat ∧
        exec .ifUp s = .next { s with err := .ok, ownaddr := a, run := true, rxerr := false }) ∧
    exec .ifDown s = .next { s with err := .ok, run := false } ∧
    exec .cntClear s =
      .next { s with err := .ok, rxframes := 0, rxbytes := 0, txframes := 0, txbytes := 0, rxdrop := 0 }

/-- R22, R151: EV_POP. -/
def Obligations.EvPop : Prop :=
  (encode .evPop).toNat = 0x3C000000 ∧
  ∀ s : State,
    (s.events = [] → exec .evPop s = .next { s with err := .ok, ev0 := 0, ev1 := 0 }) ∧
    (∀ (e : Event) (es : List Event), s.events = e :: es →
      exec .evPop s =
        .next { s with
          err := .ok, events := es
          ev0 := BitVec.ofNat 32
            ((kindCode e.kind).toNat + 2 ^ 4 * e.slot.toNat + 2 ^ 8 * e.port.toNat + 2 ^ 11 * e.seq.toNat +
              2 ^ 16 * e.src.toNat)
          ev1 := BitVec.ofNat 32 (e.value.toNat + 2 ^ 16 * e.flags.toNat) })

/-! ### Rules about every command and every step -/

/-- R167: a command that ends with `fail` changes only ERR (and LASTCMD, which the write of CMD sets). Where the failure
is IOERR, the model's own record of the environment's answers moves on (log entry 3). -/
def Obligations.FailureChangesNothing : Prop :=
  ∀ (i : Instr) (s t : State), exec i s = .next t → t.err ≠ .ok →
    t = { s with err := t.err, emits := t.emits, txAnswers := t.txAnswers } ∧
    (t.err ≠ .ioerr → t = { s with err := t.err })

/-- R165: which command can end with which code; a code outside a command's row never comes from it. -/
def Obligations.PossibleCodes : Prop :=
  ∀ (i : Instr) (s t : State), exec i s = .next t →
    t.err = .ok ∨
    (t.err = .badarg ∧ i.mnemonic ∈
      [.CRC_UPDATE, .BUF_INIT, .BUF_CLEAR, .BUF_READ, .BUF_WRITE, .BUF_MOVE, .BUF_ISFULL, .BUF_AVAIL,
        .BUF_SIZE, .SLOT_SET, .SLOT_FREE, .SLOT_GET, .IF_UP, .TX_SEND]) ∨
    (t.err = .busy ∧ i.mnemonic ∈ [.BUF_INIT, .BUF_CLEAR, .BUF_READ, .BUF_WRITE, .BUF_MOVE]) ∨
    (t.err = .full ∧ i.mnemonic ∈ [.BUF_WRITE, .BUF_MOVE]) ∨ (t.err = .nomem ∧ i.mnemonic = .BUF_WRITE) ∨
    (t.err = .portbusy ∧ i.mnemonic = .SLOT_SET) ∨ (t.err = .notup ∧ i.mnemonic = .TX_SEND) ∨
    (t.err = .ioerr ∧ i.mnemonic = .TX_SEND)

/-- Every command's frame in XBUF: only BUF_READ writes it, and only the bytes it read, from ARG0 on (R115). Every
other command also leaves ARG0, ARG1, RXIN, the parameters and IRQEN; so does BUF_READ. -/
def Obligations.CommandFrame : Prop :=
  ∀ (i : Instr) (s t : State), exec i s = .next t →
    (t.params = s.params ∧ t.arg0 = s.arg0 ∧ t.arg1 = s.arg1 ∧ t.lastcmd = s.lastcmd ∧ t.evie = s.evie ∧
      t.errie = s.errie ∧ t.rxin = s.rxin ∧ t.agenda = s.agenda ∧ t.readData = s.readData ∧
      t.resets = s.resets) ∧
    (i.mnemonic ≠ .BUF_READ → ∀ b, xread t b = xread s b) ∧
    (∀ (ch : BitVec 4) (len : Half), i = .bufRead ch len →
      ∀ b, ¬(s.arg0.toNat ≤ b ∧ b < s.arg0.toNat + len.toNat) → xread t b = xread s b)

/-- Who may change what (R17, R19, R20, R21, R22, R25, R31, R37, R42, R52), over every step of every agent. -/
def Obligations.WhoWrites : Prop :=
  ∀ s t : State, step s = .next t → (∀ ts, s.agenda ≠ .blockReset :: ts) →
    (t.run ≠ s.run → NextCommand s .ifUp ∨ NextCommand s .ifDown ∨ ∃ ts, s.agenda = .rxError :: ts) ∧
    (t.rxerr ≠ s.rxerr → NextCommand s .ifUp ∨ ∃ ts, s.agenda = .rxError :: ts) ∧
    (t.ownaddr ≠ s.ownaddr → NextCommand s .ifUp) ∧
    (t.crcacc ≠ s.crcacc → NextCommand s .crcInit ∨ ∃ len, NextCommand s (.crcUpdate len)) ∧
    (t.ev0 ≠ s.ev0 ∨ t.ev1 ≠ s.ev1 → NextCommand s .evPop) ∧
    (∀ c, (chainAt t c).maxcap ≠ (chainAt s c).maxcap →
      ∃ (ch : BitVec 4) (m : Half), ch.toNat = c ∧ NextCommand s (.bufInit ch m)) ∧
    (∀ c, ((slotAt t c).proto ≠ (slotAt s c).proto ∨ (slotAt t c).port ≠ (slotAt s c).port ∨
        (slotAt t c).remote ≠ (slotAt s c).remote) →
      ∃ slot : BitVec 4, slot.toNat = c ∧
        (NextCommand s (.slotFree slot) ∨ ∃ role proto port, NextCommand s (.slotSet slot role proto port))) ∧
    (t.err ≠ s.err ∨ t.lastcmd ≠ s.lastcmd → ∃ w ts, s.agenda = .write 4 s.params.base w :: ts) ∧
    (t.arg0 ≠ s.arg0 → ∃ w ts, s.agenda = .write 4 (s.params.base + 0x004) w :: ts) ∧
    (t.arg1 ≠ s.arg1 → ∃ w ts, s.agenda = .write 4 (s.params.base + 0x008) w :: ts)

/-! ### The environment and the dispatcher (R127 to R154) -/

/-- R154, and R152's appending: an RX device error while RUN = 1 sets RXERR and clears RUN, nothing else, and the
dispatcher is held while RUN = 0; a frame offered goes to the tail of RXIN whatever RUN is. -/
def Obligations.EnvironmentSteps : Prop :=
  (∀ (s : State) (ts : List Turn), s.run = true → s.agenda = .rxError :: ts →
    step s = .next { s with agenda := ts, rxerr := true, run := false }) ∧
  (∀ (s : State) (f : Frame) (ts : List Turn), f.data.length = min f.dlc.toNat 8 → s.agenda = .rxFrame f :: ts →
    step s = .next { s with agenda := ts, rxin := s.rxin ++ [f] }) ∧
  (∀ s : State, s.run = false → dispatcherTurn s = s)

/-- R127: the dispatcher has a step exactly when RUN = 1, RXIN ≠ [] and EVCOUNT < EVQ_DEPTH; held, it changes nothing.
R128: its step takes the head of RXIN and processes it completely. -/
def Obligations.DispatcherEnabling : Prop :=
  (∀ (s : State) (ts : List Turn), s.agenda = .dispatcher :: ts →
    step s = .next (dispatcherTurn { s with agenda := ts })) ∧
  (∀ s : State, s.agenda = [] → step s = .next (dispatcherTurn s)) ∧
  (∀ s : State, ¬(s.run = true ∧ s.rxin ≠ [] ∧ s.events.length < s.params.evqDepth) → dispatcherTurn s = s) ∧
  (∀ (s : State) (f : Frame) (fs : List Frame), s.run = true → s.rxin = f :: fs →
    s.events.length < s.params.evqDepth →
      dispatcherTurn s = receive f { s with rxin := fs } ∧ (dispatcherTurn s).rxin = fs)

/-- R128, R146: every frame taken ends in exactly one of `drop`, which counts it and changes nothing else, and `take`,
which counts it with its DLC. -/
def Obligations.DropOrTake : Prop :=
  ∀ (s : State) (f : Frame),
    (receive f s = { s with rxdrop := s.rxdrop + 1 } ∨
      ((receive f s).rxframes = s.rxframes + 1 ∧
        (receive f s).rxbytes = s.rxbytes + BitVec.ofNat 32 f.dlc.toNat ∧
        (receive f s).rxdrop = s.rxdrop)) ∧
    (receive f s).rxframes + (receive f s).rxdrop = s.rxframes + s.rxdrop + 1

/-- R129, R130, R131: the frames dropped before routing. -/
def Obligations.FramesDropped : Prop :=
  ∀ (s : State) (f : Frame),
    (f.ide = false ∨ f.rtr = true ∨ f.dlc.toNat = 0 ∨ 8 < f.dlc.toNat ∨
      (f.id.toNat / 2 ^ 14 % 2 ^ 14 ≠ s.ownaddr.toNat ∧ f.id.toNat / 2 ^ 14 % 2 ^ 14 ≠ 0x3FFF) ∨
      (frameType f = .first ∧ f.dlc.toNat < 5) ∨
      (frameType f = .stat ∧ 2 ≤ f.dlc.toNat ∧ (frameByte f 1).toNat / 2 % 2 = 1 ∧ f.dlc.toNat < 4)) →
    receive f s = { s with rxdrop := s.rxdrop + 1 }

/-- R132: route_data. The slot it gives is the one CONNECTED to the frame's source on its port, else the one BOUND to
the port; it is unique; and where there is none the frame is dropped. -/
def Obligations.RouteData : Prop :=
  ∀ (s : State) (f : Frame), Invariant s →
    (∀ i, routeData s f = some i ↔ DataSlot s f i) ∧
    (∀ i j, DataSlot s f i → DataSlot s f j → i = j) ∧
    ((frameType f = .first ∨ frameType f = .next ∨ frameType f = .last ∨ frameType f = .single) →
      (∀ i, ¬ DataSlot s f i) → receive f s = { s with rxdrop := s.rxdrop + 1 })

/-- R137: handler `single`. With no slot the frame is dropped. The data is delivered where it fits the emptied
assembly chain (R104) and then the ready chain (R106); else nothing is, with XFER_FAIL (reason 3) only on a STREAM
slot. The abandoned assembly's chunks are back in the pool, and a delivery with data takes one. -/
def Obligations.HandlerSingle : Prop :=
  (∀ (s : State) (f : Frame), Invariant s → frameType f = .single → (∀ j, ¬ DataSlot s f j) →
    receive f s = { s with rxdrop := s.rxdrop + 1 }) ∧
  ∀ (s : State) (f : Frame) (i : Nat), Invariant s → ForMe s f → f.data.length = f.dlc.toNat → frameType f = .single →
    DataSlot s f i →
    let d := f.data.drop 1
    let t := receive f s
    let free := freeChunks s + (chainAt s (2 * i)).chunks.length
    let fits := d.length ≤ (chainAt s (2 * i)).maxcap.toNat ∧
      (d ≠ [] → 1 ≤ free ∧ totalSize s (2 * i + 1) + d.length ≤ (chainAt s (2 * i + 1)).maxcap.toNat)
    let e : Event :=
      { kind := .xferOk, slot := BitVec.ofNat 4 i, port := framePort f, seq := frameSeq f, src := frameSrc f,
        value := BitVec.ofNat 16 (f.dlc.toNat - 1), flags := 0 }
    t = { s with slots := t.slots, chains := t.chains, events := t.events, rxframes := s.rxframes + 1,
                 rxbytes := s.rxbytes + BitVec.ofNat 32 f.dlc.toNat } ∧
    (∀ j, j ≠ i → slotAt t j = slotAt s j ∧ chainAt t (2 * j) = chainAt s (2 * j) ∧
      chainAt t (2 * j + 1) = chainAt s (2 * j + 1)) ∧
    (∀ c, (chainAt t c).maxcap = (chainAt s c).maxcap) ∧ chainBytes t (2 * i) = [] ∧
    (chainAt t (2 * i)).chunks = [] ∧
    (fits →
      (chainAt t (2 * i + 1)).chunks =
        (chainAt s (2 * i + 1)).chunks ++ (if d = [] then [] else [{ data := d, seek := 0 }]) ∧
      freeChunks t + (if d = [] then 0 else 1) = free ∧
      chainBytes t (2 * i + 1) = chainBytes s (2 * i + 1) ++ d ∧ t.events = s.events ++ [e] ∧
      slotAt t i = { slotAt s i with asmActive := false, asmErr := false, rxSeq := frameSeq f }) ∧
    (¬fits →
      chainAt t (2 * i + 1) = chainAt s (2 * i + 1) ∧ freeChunks t = free ∧
      t.events = s.events ++
        (if (slotAt s i).proto = .stream then [{ e with kind := .xferFail, flags := 3 }] else []) ∧
      slotAt t i = { slotAt s i with asmActive := false, asmErr := false })

/-- R135: append. Once ASM_ERR = 1 nothing more is stored or folded; a write that fails sets it. One that succeeds leaves
the chains chain_write leaves (ChainWrite), with its chunks from the pool. -/
def Obligations.Append : Prop :=
  ∀ (s : State) (i : Nat) (b : List Byte), Invariant s → i < s.params.nslot →
    let t := appendAsm i b s
    let fits := totalSize s (2 * i) + b.length ≤ (chainAt s (2 * i)).maxcap.toNat ∧
      need (chainAt s (2 * i)).chunks b.length ≤ freeChunks s
    t = { s with slots := t.slots, chains := t.chains } ∧
    (∀ j, j ≠ i → slotAt t j = slotAt s j) ∧ (∀ c, c ≠ 2 * i → chainAt t c = chainAt s c) ∧
    (chainAt t (2 * i)).maxcap = (chainAt s (2 * i)).maxcap ∧
    ((slotAt s i).asmErr = true → t = s) ∧
    ((slotAt s i).asmErr = false → fits →
      chainWrite (2 * i) b s = .ok { s with chains := t.chains } ∧
      freeChunks t + need (chainAt s (2 * i)).chunks b.length = freeChunks s ∧
      chainBytes t (2 * i) = chainBytes s (2 * i) ++ b ∧
      slotAt t i = { slotAt s i with asmCrc := b.foldl crcUpdate (slotAt s i).asmCrc }) ∧
    ((slotAt s i).asmErr = false → ¬fits →
      chainAt t (2 * i) = chainAt s (2 * i) ∧ freeChunks t = freeChunks s ∧
      slotAt t i = { slotAt s i with asmErr := true })

/-- R136: finish. The first reason in the rule's order decides; a good transfer goes to the ready chain with XFER_OK,
a bad one is cleared, its chunks back in the pool, with XFER_FAIL only on a STREAM slot. -/
def Obligations.Finish : Prop :=
  ∀ (s : State) (f : Frame) (i : Nat), Invariant s → i < s.params.nslot →
    let x := slotAt s i
    let size := totalSize s (2 * i)
    let t := finishAsm f i s
    let reason : Nat :=
      if x.asmErr = true then 3
      else if size ≠ x.asmSize.toNat then 1
      else if x.asmCrc ≠ x.asmCrcExp then 2
      else if size ≠ 0 ∧ (chainAt s (2 * i + 1)).maxcap.toNat < totalSize s (2 * i + 1) + size then 3
      else 0
    let e : Event :=
      { kind := .xferOk, slot := BitVec.ofNat 4 i, port := framePort f, seq := frameSeq f, src := frameSrc f,
        value := BitVec.ofNat 16 size, flags := 0 }
    t = { s with slots := t.slots, chains := t.chains, events := t.events } ∧ chainBytes t (2 * i) = [] ∧
    (∀ j, j ≠ i → slotAt t j = slotAt s j) ∧
    (∀ c, c ≠ 2 * i → c ≠ 2 * i + 1 → chainAt t c = chainAt s c) ∧
    (∀ c, (chainAt t c).maxcap = (chainAt s c).maxcap) ∧ (chainAt t (2 * i)).chunks = [] ∧
    (reason = 0 →
      (chainAt t (2 * i + 1)).chunks = (chainAt s (2 * i + 1)).chunks ++ (chainAt s (2 * i)).chunks ∧
      freeChunks t = freeChunks s ∧
      chainBytes t (2 * i + 1) = chainBytes s (2 * i + 1) ++ chainBytes s (2 * i) ∧
      t.events = s.events ++ [e] ∧
      slotAt t i = { x with asmActive := false, asmErr := false, rxSeq := x.asmSeq }) ∧
    (reason ≠ 0 →
      chainAt t (2 * i + 1) = chainAt s (2 * i + 1) ∧
      freeChunks t = freeChunks s + (chainAt s (2 * i)).chunks.length ∧
      t.events = s.events ++
        (if x.proto = .stream then
          [{ e with kind := .xferFail, value := x.asmSize, flags := BitVec.ofNat 8 reason }]
        else []) ∧
      slotAt t i = { x with asmActive := false, asmErr := false })

/-- R138: handler `first`. With no slot the frame is dropped; else it restarts the slot's assembly with the declared
size and CRC, low byte first (R81). -/
def Obligations.HandlerFirst : Prop :=
  (∀ (s : State) (f : Frame), Invariant s → frameType f = .first → (∀ j, ¬ DataSlot s f j) →
    receive f s = { s with rxdrop := s.rxdrop + 1 }) ∧
  ∀ (s : State) (f : Frame) (i : Nat), Invariant s → ForMe s f → f.data.length = f.dlc.toNat → frameType f = .first →
    5 ≤ f.dlc.toNat → DataSlot s f i →
    ∃ size crc : Half,
      size.toNat = (frameByte f 1).toNat + 2 ^ 8 * (frameByte f 2).toNat ∧
      crc.toNat = (frameByte f 3).toNat + 2 ^ 8 * (frameByte f 4).toNat ∧
      receive f s =
        take f (appendAsm i (f.data.drop 5)
          { s with
            slots := s.slots.set i
              { slotAt s i with
                asmActive := true, asmErr := false, asmSeq := frameSeq f, asmSrc := frameSrc f, asmSize := size,
                asmCrcExp := crc, asmCrc := 0xFFFF }
            chains := s.chains.set (2 * i) { chainAt s (2 * i) with chunks := [] } })

/-- R139, R140: handlers `next` and `last`. With no slot the frame is dropped. Only a frame of the transfer in progress
(its sequence and source) is taken; a stale one is dropped and the assembly is as it was. -/
def Obligations.HandlerNextLast : Prop :=
  (∀ (s : State) (f : Frame), Invariant s → frameType f = .next ∨ frameType f = .last → (∀ j, ¬ DataSlot s f j) →
    receive f s = { s with rxdrop := s.rxdrop + 1 }) ∧
  ∀ (s : State) (f : Frame) (i : Nat), Invariant s → ForMe s f → f.data.length = f.dlc.toNat → DataSlot s f i →
    let mine := (slotAt s i).asmActive = true ∧ frameSeq f = (slotAt s i).asmSeq ∧
      frameSrc f = (slotAt s i).asmSrc
    (frameType f = .next ∨ frameType f = .last → ¬mine → receive f s = { s with rxdrop := s.rxdrop + 1 }) ∧
    (frameType f = .next → mine → receive f s = take f (appendAsm i (f.data.drop 1) s)) ∧
    (frameType f = .last → mine → receive f s = take f (finishAsm f i (appendAsm i (f.data.drop 1) s)))

/-- R133, R141: handler `connect`. -/
def Obligations.HandlerConnect : Prop :=
  ∀ (s : State) (f : Frame), Invariant s → ForMe s f → frameType f = .connect →
    let fl : Byte := if 2 ≤ f.dlc.toNat then frameByte f 1 else 0
    let e := fun (kind : EventKind) (i : Nat) =>
      { kind := kind, slot := BitVec.ofNat 4 i, port := framePort f, seq := frameSeq f, src := frameSrc f,
        value := 0, flags := fl : Event }
    let response := fl.toNat / 2 % 2 = 1
    (response → (∀ i, ¬ PeerSlot s f .connecting i) → receive f s = { s with rxdrop := s.rxdrop + 1 }) ∧
    (response → ∀ i, PeerSlot s f .connecting i →
      receive f s =
        { s with
          slots := if fl.toNat % 2 = 1 then s.slots.set i { slotAt s i with role := .connected } else s.slots
          events := s.events ++ [e .connectResp i]
          rxframes := s.rxframes + 1, rxbytes := s.rxbytes + BitVec.ofNat 32 f.dlc.toNat }) ∧
    (¬response → (∀ i, ¬ PortSlot s f .listen i) → receive f s = { s with rxdrop := s.rxdrop + 1 }) ∧
    (¬response → ∀ i, PortSlot s f .listen i →
      receive f s =
        { s with
          events := s.events ++ [e .connectReq i]
          rxframes := s.rxframes + 1, rxbytes := s.rxbytes + BitVec.ofNat 32 f.dlc.toNat })

/-- R133, R143: handler `disconnect`. -/
def Obligations.HandlerDisconnect : Prop :=
  ∀ (s : State) (f : Frame), Invariant s → ForMe s f → frameType f = .disconnect →
    ((∀ i, ¬(PeerSlot s f .connecting i ∨ PeerSlot s f .connected i)) →
      receive f s = { s with rxdrop := s.rxdrop + 1 }) ∧
    (∀ i, (PeerSlot s f .connecting i ∨ PeerSlot s f .connected i) →
      receive f s =
        { s with
          slots := s.slots.set i { slotAt s i with role := .closed, asmActive := false, asmErr := false }
          chains := s.chains.set (2 * i) { chainAt s (2 * i) with chunks := [] }
          events := s.events ++
            [{ kind := .disconnect, slot := BitVec.ofNat 4 i, port := framePort f, seq := frameSeq f,
               src := frameSrc f, value := 0,
               flags := if 2 ≤ f.dlc.toNat then frameByte f 1 else 0 }]
          rxframes := s.rxframes + 1, rxbytes := s.rxbytes + BitVec.ofNat 32 f.dlc.toNat })

/-- R133, R144, R145: handlers `stat` and `ack`. -/
def Obligations.HandlerStatAck : Prop :=
  ∀ (s : State) (f : Frame), Invariant s → ForMe s f → (frameType f = .stat ∨ frameType f = .ack) →
    let fl : Byte := if 2 ≤ f.dlc.toNat then frameByte f 1 else 0
    let response := fl.toNat / 2 % 2 = 1
    let took := fun (i : Nat) (kind : EventKind) (value : Half) =>
      { s with
        events := s.events ++
          [{ kind := kind, slot := BitVec.ofNat 4 i, port := framePort f, seq := frameSeq f, src := frameSrc f,
             value := value, flags := fl }]
        rxframes := s.rxframes + 1, rxbytes := s.rxbytes + BitVec.ofNat 32 f.dlc.toNat : State }
    ((∀ i, ¬ PeerSlot s f .connected i) → receive f s = { s with rxdrop := s.rxdrop + 1 }) ∧
    (∀ i, PeerSlot s f .connected i →
      (frameType f = .ack → receive f s = took i .ack 0) ∧
      (frameType f = .stat → ¬response → receive f s = took i .statReq 0) ∧
      (frameType f = .stat → response → 4 ≤ f.dlc.toNat →
        receive f s =
          took i .statResp (BitVec.ofNat 16 ((frameByte f 2).toNat + 2 ^ 8 * (frameByte f 3).toNat))))

/-- R52: what a dispatcher or RX-error step may write. Only the slot the frame is routed to (R132, R133) and its two
chains can change, and at most one event is posted, which names that slot and carries the frame's fields (R134). -/
def Obligations.DispatcherFrame : Prop :=
  (∀ (s : State) (ts : List Turn) (t : State), s.agenda = .rxError :: ts → step s = .next t →
    t = { s with agenda := ts, run := t.run, rxerr := t.rxerr }) ∧
  (∀ s : State,
    let t := dispatcherTurn s
    let routed := fun f : Frame =>
      match frameType f with
      | .first => routeData s f
      | .next => routeData s f
      | .last => routeData s f
      | .single => routeData s f
      | .connect =>
          if flagResponse (frameFlags f) then findPeer s (roleIs .connecting) (framePort f) (frameSrc f)
          else findPort s .listen (framePort f)
      | .disconnect => findPeer s isPeered (framePort f) (frameSrc f)
      | .stat => findPeer s (roleIs .connected) (framePort f) (frameSrc f)
      | .ack => findPeer s (roleIs .connected) (framePort f) (frameSrc f)
    t = { s with
      rxin := t.rxin, slots := t.slots, chains := t.chains, events := t.events, rxframes := t.rxframes,
      rxbytes := t.rxbytes, rxdrop := t.rxdrop } ∧
    (s.rxin = [] → t = s) ∧
    (∀ c, (chainAt t c).maxcap = (chainAt s c).maxcap) ∧
    (∀ j, (slotAt t j).proto = (slotAt s j).proto ∧ (slotAt t j).port = (slotAt s j).port ∧
      (slotAt t j).remote = (slotAt s j).remote ∧
      ((slotAt t j).role = (slotAt s j).role ∨
        ((slotAt s j).role = .connecting ∧ (slotAt t j).role = .connected) ∨
        (((slotAt s j).role = .connecting ∨ (slotAt s j).role = .connected) ∧ (slotAt t j).role = .closed))) ∧
    (∀ f fs, s.rxin = f :: fs →
      (t.rxin = fs ∨ t = s) ∧
      (∀ j, routed f ≠ some j → slotAt t j = slotAt s j ∧ chainAt t (2 * j) = chainAt s (2 * j) ∧
        chainAt t (2 * j + 1) = chainAt s (2 * j + 1)) ∧
      (t.events = s.events ∨ ∃ (i : Nat) (kind : EventKind) (value : Half) (flags : Byte), routed f = some i ∧
        t.events = s.events ++
          [{ kind := kind, slot := BitVec.ofNat 4 i, port := framePort f, seq := frameSeq f, src := frameSrc f,
             value := value, flags := flags }])))

/-! ### Reset, the invariant, and whole transfers -/

/-- R180, R181: a reset of the block, and power-on. Every row of R181's table but XBUF, of which R181 says nothing
(any value, a free draw a byte). What the environment owns stays, and with it the model's bookkeeping (log entry
11). -/
def Obligations.ResetValues : Prop :=
  (∀ (s : State) (ts : List Turn), s.agenda = .blockReset :: ts →
    ∃ t : State, step s = .next t ∧ t.rxin = s.rxin ∧ t.txout = s.txout ∧ t.params = s.params ∧ t.agenda = ts ∧
      { t with rxin := [], txout := [], agenda := [], readData := none, txAnswers := [], emits := 0,
               resets := 0, xbuf := [] } = State.powerOn s.params) ∧
  (∀ p : Params, p.Legal →
    let t := State.powerOn p
    t.lastcmd = 0 ∧ t.arg0 = 0 ∧ t.arg1 = 0 ∧ t.res0 = 0 ∧ t.res1 = 0 ∧ readWindow 0x014 t = 0 ∧
    readWindow 0x018 t = 0x0000FFFF ∧ t.ev0 = 0 ∧ t.ev1 = 0 ∧ t.rxframes = 0 ∧ t.rxbytes = 0 ∧ t.txframes = 0 ∧
    t.txbytes = 0 ∧ t.rxdrop = 0 ∧ freeChunks t = p.nchunk ∧ readWindow 0x040 t = 0 ∧ irq t = false ∧
    t.events = [] ∧ t.rxin = [] ∧ t.txout = [] ∧ t.slots.length = p.nslot ∧ t.chains.length = 2 * p.nslot ∧
    (∀ i, slotAt t i =
      { role := .free, proto := .dgram, port := 0, remote := 0, rxSeq := 0, asmActive := false, asmErr := false,
        asmSeq := 0, asmSrc := 0, asmSize := 0, asmCrcExp := 0, asmCrc := 0xFFFF }) ∧
    (∀ c, chainAt t c = { maxcap := 0, chunks := [] }))

/-- The reset state, and power-on with any legal parameters, meet the invariant. -/
def Obligations.ResetInv : Prop := Invariant State.reset ∧ ∀ p : Params, p.Legal → Invariant (State.powerOn p)

/-- Every step of every agent keeps the invariant (R34 to R39, R103, and the canonical form of XBUF), and no step
changes the parameters. -/
def Obligations.StepKeepsInv : Prop :=
  ∀ s t : State, Invariant s → step s = .next t → Invariant t ∧ t.params = s.params

/-- R88, R100, R136 to R140: a canonical transfer is reassembled. Frames cut from d by R88 and waiting at the head of
RXIN, whose data one slot takes (R132: CONNECTED to the source, or BOUND), are taken one a step; after them the ready
chain has gained exactly d, one XFER_OK with d's length is queued, and the slot is idle again. -/
def Obligations.TransferReassembled : Prop :=
  ∀ (s : State) (i : Nat) (src : BusAddr) (port : Port) (seq : Seq) (d : List Byte) (rest : List Frame),
    Invariant s → s.run = true → d.length ≤ 0xFFFF → s.events.length < s.params.evqDepth →
    s.rxin = transferFrames s.ownaddr src port seq d ++ rest →
    (∀ f ∈ transferFrames s.ownaddr src port seq d, DataSlot s f i) →
    d.length ≤ (chainAt s (2 * i)).maxcap.toNat →
    totalSize s (2 * i + 1) + d.length ≤ (chainAt s (2 * i + 1)).maxcap.toNat →
    (d.length + 31) / 32 ≤ freeChunks s + (chainAt s (2 * i)).chunks.length →
    let t := dispatcherTurn^[(transferFrames s.ownaddr src port seq d).length] s
    t.rxin = rest ∧ chainBytes t (2 * i) = [] ∧
    chainBytes t (2 * i + 1) = chainBytes s (2 * i + 1) ++ d ∧
    t.events = s.events ++
      [{ kind := .xferOk, slot := BitVec.ofNat 4 i, port := port, seq := seq, src := src,
         value := BitVec.ofNat 16 d.length, flags := 0 }] ∧
    (slotAt t i).rxSeq = seq ∧ (slotAt t i).asmActive = false ∧
    t.rxdrop = s.rxdrop ∧
    t.rxframes = s.rxframes + BitVec.ofNat 32 (transferFrames s.ownaddr src port seq d).length
end

