-- ==== Sys2Proof/Laws/State.lean ====
section
/-! SUPPORT. Laws/State.lean: what each named update of the state does to each field, one lemma a field, true by
unfolding the update once; and reading a slot or a chain after each update. Later proofs cite these by simp. -/

namespace Sys2Proof.Machine

variable {s : State}

/-! ### fail -/

@[simp] theorem fail_params (e : ErrCode) (s : State) : (fail e s).params = s.params := rfl
@[simp] theorem fail_lastcmd (e : ErrCode) (s : State) : (fail e s).lastcmd = s.lastcmd := rfl
@[simp] theorem fail_arg0 (e : ErrCode) (s : State) : (fail e s).arg0 = s.arg0 := rfl
@[simp] theorem fail_arg1 (e : ErrCode) (s : State) : (fail e s).arg1 = s.arg1 := rfl
@[simp] theorem fail_res0 (e : ErrCode) (s : State) : (fail e s).res0 = s.res0 := rfl
@[simp] theorem fail_res1 (e : ErrCode) (s : State) : (fail e s).res1 = s.res1 := rfl
@[simp] theorem fail_err (e : ErrCode) (s : State) : (fail e s).err = e := rfl
@[simp] theorem fail_run (e : ErrCode) (s : State) : (fail e s).run = s.run := rfl
@[simp] theorem fail_rxerr (e : ErrCode) (s : State) : (fail e s).rxerr = s.rxerr := rfl
@[simp] theorem fail_ownaddr (e : ErrCode) (s : State) : (fail e s).ownaddr = s.ownaddr := rfl
@[simp] theorem fail_crcacc (e : ErrCode) (s : State) : (fail e s).crcacc = s.crcacc := rfl
@[simp] theorem fail_ev0 (e : ErrCode) (s : State) : (fail e s).ev0 = s.ev0 := rfl
@[simp] theorem fail_ev1 (e : ErrCode) (s : State) : (fail e s).ev1 = s.ev1 := rfl
@[simp] theorem fail_rxframes (e : ErrCode) (s : State) : (fail e s).rxframes = s.rxframes := rfl
@[simp] theorem fail_rxbytes (e : ErrCode) (s : State) : (fail e s).rxbytes = s.rxbytes := rfl
@[simp] theorem fail_txframes (e : ErrCode) (s : State) : (fail e s).txframes = s.txframes := rfl
@[simp] theorem fail_txbytes (e : ErrCode) (s : State) : (fail e s).txbytes = s.txbytes := rfl
@[simp] theorem fail_rxdrop (e : ErrCode) (s : State) : (fail e s).rxdrop = s.rxdrop := rfl
@[simp] theorem fail_evie (e : ErrCode) (s : State) : (fail e s).evie = s.evie := rfl
@[simp] theorem fail_errie (e : ErrCode) (s : State) : (fail e s).errie = s.errie := rfl
@[simp] theorem fail_xbuf (e : ErrCode) (s : State) : (fail e s).xbuf = s.xbuf := rfl
@[simp] theorem fail_slots (e : ErrCode) (s : State) : (fail e s).slots = s.slots := rfl
@[simp] theorem fail_chains (e : ErrCode) (s : State) : (fail e s).chains = s.chains := rfl
@[simp] theorem fail_events (e : ErrCode) (s : State) : (fail e s).events = s.events := rfl
@[simp] theorem fail_rxin (e : ErrCode) (s : State) : (fail e s).rxin = s.rxin := rfl
@[simp] theorem fail_txout (e : ErrCode) (s : State) : (fail e s).txout = s.txout := rfl
@[simp] theorem fail_agenda (e : ErrCode) (s : State) : (fail e s).agenda = s.agenda := rfl
@[simp] theorem fail_readData (e : ErrCode) (s : State) : (fail e s).readData = s.readData := rfl
@[simp] theorem fail_txAnswers (e : ErrCode) (s : State) : (fail e s).txAnswers = s.txAnswers := rfl
@[simp] theorem fail_emits (e : ErrCode) (s : State) : (fail e s).emits = s.emits := rfl
@[simp] theorem fail_resets (e : ErrCode) (s : State) : (fail e s).resets = s.resets := rfl

/-! ### done -/

@[simp] theorem done_params (s : State) : (done s).params = s.params := rfl
@[simp] theorem done_lastcmd (s : State) : (done s).lastcmd = s.lastcmd := rfl
@[simp] theorem done_arg0 (s : State) : (done s).arg0 = s.arg0 := rfl
@[simp] theorem done_arg1 (s : State) : (done s).arg1 = s.arg1 := rfl
@[simp] theorem done_res0 (s : State) : (done s).res0 = s.res0 := rfl
@[simp] theorem done_res1 (s : State) : (done s).res1 = s.res1 := rfl
@[simp] theorem done_err (s : State) : (done s).err = .ok := rfl
@[simp] theorem done_run (s : State) : (done s).run = s.run := rfl
@[simp] theorem done_rxerr (s : State) : (done s).rxerr = s.rxerr := rfl
@[simp] theorem done_ownaddr (s : State) : (done s).ownaddr = s.ownaddr := rfl
@[simp] theorem done_crcacc (s : State) : (done s).crcacc = s.crcacc := rfl
@[simp] theorem done_ev0 (s : State) : (done s).ev0 = s.ev0 := rfl
@[simp] theorem done_ev1 (s : State) : (done s).ev1 = s.ev1 := rfl
@[simp] theorem done_rxframes (s : State) : (done s).rxframes = s.rxframes := rfl
@[simp] theorem done_rxbytes (s : State) : (done s).rxbytes = s.rxbytes := rfl
@[simp] theorem done_txframes (s : State) : (done s).txframes = s.txframes := rfl
@[simp] theorem done_txbytes (s : State) : (done s).txbytes = s.txbytes := rfl
@[simp] theorem done_rxdrop (s : State) : (done s).rxdrop = s.rxdrop := rfl
@[simp] theorem done_evie (s : State) : (done s).evie = s.evie := rfl
@[simp] theorem done_errie (s : State) : (done s).errie = s.errie := rfl
@[simp] theorem done_xbuf (s : State) : (done s).xbuf = s.xbuf := rfl
@[simp] theorem done_slots (s : State) : (done s).slots = s.slots := rfl
@[simp] theorem done_chains (s : State) : (done s).chains = s.chains := rfl
@[simp] theorem done_events (s : State) : (done s).events = s.events := rfl
@[simp] theorem done_rxin (s : State) : (done s).rxin = s.rxin := rfl
@[simp] theorem done_txout (s : State) : (done s).txout = s.txout := rfl
@[simp] theorem done_agenda (s : State) : (done s).agenda = s.agenda := rfl
@[simp] theorem done_readData (s : State) : (done s).readData = s.readData := rfl
@[simp] theorem done_txAnswers (s : State) : (done s).txAnswers = s.txAnswers := rfl
@[simp] theorem done_emits (s : State) : (done s).emits = s.emits := rfl
@[simp] theorem done_resets (s : State) : (done s).resets = s.resets := rfl

/-! ### setRes0 -/

@[simp] theorem setRes0_params (v : Word) (s : State) : (setRes0 v s).params = s.params := rfl
@[simp] theorem setRes0_lastcmd (v : Word) (s : State) : (setRes0 v s).lastcmd = s.lastcmd := rfl
@[simp] theorem setRes0_arg0 (v : Word) (s : State) : (setRes0 v s).arg0 = s.arg0 := rfl
@[simp] theorem setRes0_arg1 (v : Word) (s : State) : (setRes0 v s).arg1 = s.arg1 := rfl
@[simp] theorem setRes0_res0 (v : Word) (s : State) : (setRes0 v s).res0 = v := rfl
@[simp] theorem setRes0_res1 (v : Word) (s : State) : (setRes0 v s).res1 = s.res1 := rfl
@[simp] theorem setRes0_err (v : Word) (s : State) : (setRes0 v s).err = s.err := rfl
@[simp] theorem setRes0_run (v : Word) (s : State) : (setRes0 v s).run = s.run := rfl
@[simp] theorem setRes0_rxerr (v : Word) (s : State) : (setRes0 v s).rxerr = s.rxerr := rfl
@[simp] theorem setRes0_ownaddr (v : Word) (s : State) : (setRes0 v s).ownaddr = s.ownaddr := rfl
@[simp] theorem setRes0_crcacc (v : Word) (s : State) : (setRes0 v s).crcacc = s.crcacc := rfl
@[simp] theorem setRes0_ev0 (v : Word) (s : State) : (setRes0 v s).ev0 = s.ev0 := rfl
@[simp] theorem setRes0_ev1 (v : Word) (s : State) : (setRes0 v s).ev1 = s.ev1 := rfl
@[simp] theorem setRes0_rxframes (v : Word) (s : State) : (setRes0 v s).rxframes = s.rxframes := rfl
@[simp] theorem setRes0_rxbytes (v : Word) (s : State) : (setRes0 v s).rxbytes = s.rxbytes := rfl
@[simp] theorem setRes0_txframes (v : Word) (s : State) : (setRes0 v s).txframes = s.txframes := rfl
@[simp] theorem setRes0_txbytes (v : Word) (s : State) : (setRes0 v s).txbytes = s.txbytes := rfl
@[simp] theorem setRes0_rxdrop (v : Word) (s : State) : (setRes0 v s).rxdrop = s.rxdrop := rfl
@[simp] theorem setRes0_evie (v : Word) (s : State) : (setRes0 v s).evie = s.evie := rfl
@[simp] theorem setRes0_errie (v : Word) (s : State) : (setRes0 v s).errie = s.errie := rfl
@[simp] theorem setRes0_xbuf (v : Word) (s : State) : (setRes0 v s).xbuf = s.xbuf := rfl
@[simp] theorem setRes0_slots (v : Word) (s : State) : (setRes0 v s).slots = s.slots := rfl
@[simp] theorem setRes0_chains (v : Word) (s : State) : (setRes0 v s).chains = s.chains := rfl
@[simp] theorem setRes0_events (v : Word) (s : State) : (setRes0 v s).events = s.events := rfl
@[simp] theorem setRes0_rxin (v : Word) (s : State) : (setRes0 v s).rxin = s.rxin := rfl
@[simp] theorem setRes0_txout (v : Word) (s : State) : (setRes0 v s).txout = s.txout := rfl
@[simp] theorem setRes0_agenda (v : Word) (s : State) : (setRes0 v s).agenda = s.agenda := rfl
@[simp] theorem setRes0_readData (v : Word) (s : State) : (setRes0 v s).readData = s.readData := rfl
@[simp] theorem setRes0_txAnswers (v : Word) (s : State) : (setRes0 v s).txAnswers = s.txAnswers := rfl
@[simp] theorem setRes0_emits (v : Word) (s : State) : (setRes0 v s).emits = s.emits := rfl
@[simp] theorem setRes0_resets (v : Word) (s : State) : (setRes0 v s).resets = s.resets := rfl

/-! ### setRes1 -/

@[simp] theorem setRes1_params (v : Word) (s : State) : (setRes1 v s).params = s.params := rfl
@[simp] theorem setRes1_lastcmd (v : Word) (s : State) : (setRes1 v s).lastcmd = s.lastcmd := rfl
@[simp] theorem setRes1_arg0 (v : Word) (s : State) : (setRes1 v s).arg0 = s.arg0 := rfl
@[simp] theorem setRes1_arg1 (v : Word) (s : State) : (setRes1 v s).arg1 = s.arg1 := rfl
@[simp] theorem setRes1_res0 (v : Word) (s : State) : (setRes1 v s).res0 = s.res0 := rfl
@[simp] theorem setRes1_res1 (v : Word) (s : State) : (setRes1 v s).res1 = v := rfl
@[simp] theorem setRes1_err (v : Word) (s : State) : (setRes1 v s).err = s.err := rfl
@[simp] theorem setRes1_run (v : Word) (s : State) : (setRes1 v s).run = s.run := rfl
@[simp] theorem setRes1_rxerr (v : Word) (s : State) : (setRes1 v s).rxerr = s.rxerr := rfl
@[simp] theorem setRes1_ownaddr (v : Word) (s : State) : (setRes1 v s).ownaddr = s.ownaddr := rfl
@[simp] theorem setRes1_crcacc (v : Word) (s : State) : (setRes1 v s).crcacc = s.crcacc := rfl
@[simp] theorem setRes1_ev0 (v : Word) (s : State) : (setRes1 v s).ev0 = s.ev0 := rfl
@[simp] theorem setRes1_ev1 (v : Word) (s : State) : (setRes1 v s).ev1 = s.ev1 := rfl
@[simp] theorem setRes1_rxframes (v : Word) (s : State) : (setRes1 v s).rxframes = s.rxframes := rfl
@[simp] theorem setRes1_rxbytes (v : Word) (s : State) : (setRes1 v s).rxbytes = s.rxbytes := rfl
@[simp] theorem setRes1_txframes (v : Word) (s : State) : (setRes1 v s).txframes = s.txframes := rfl
@[simp] theorem setRes1_txbytes (v : Word) (s : State) : (setRes1 v s).txbytes = s.txbytes := rfl
@[simp] theorem setRes1_rxdrop (v : Word) (s : State) : (setRes1 v s).rxdrop = s.rxdrop := rfl
@[simp] theorem setRes1_evie (v : Word) (s : State) : (setRes1 v s).evie = s.evie := rfl
@[simp] theorem setRes1_errie (v : Word) (s : State) : (setRes1 v s).errie = s.errie := rfl
@[simp] theorem setRes1_xbuf (v : Word) (s : State) : (setRes1 v s).xbuf = s.xbuf := rfl
@[simp] theorem setRes1_slots (v : Word) (s : State) : (setRes1 v s).slots = s.slots := rfl
@[simp] theorem setRes1_chains (v : Word) (s : State) : (setRes1 v s).chains = s.chains := rfl
@[simp] theorem setRes1_events (v : Word) (s : State) : (setRes1 v s).events = s.events := rfl
@[simp] theorem setRes1_rxin (v : Word) (s : State) : (setRes1 v s).rxin = s.rxin := rfl
@[simp] theorem setRes1_txout (v : Word) (s : State) : (setRes1 v s).txout = s.txout := rfl
@[simp] theorem setRes1_agenda (v : Word) (s : State) : (setRes1 v s).agenda = s.agenda := rfl
@[simp] theorem setRes1_readData (v : Word) (s : State) : (setRes1 v s).readData = s.readData := rfl
@[simp] theorem setRes1_txAnswers (v : Word) (s : State) : (setRes1 v s).txAnswers = s.txAnswers := rfl
@[simp] theorem setRes1_emits (v : Word) (s : State) : (setRes1 v s).emits = s.emits := rfl
@[simp] theorem setRes1_resets (v : Word) (s : State) : (setRes1 v s).resets = s.resets := rfl

/-! ### setRes0Nat -/

@[simp] theorem setRes0Nat_params (n : Nat) (s : State) : (setRes0Nat n s).params = s.params := rfl
@[simp] theorem setRes0Nat_lastcmd (n : Nat) (s : State) : (setRes0Nat n s).lastcmd = s.lastcmd := rfl
@[simp] theorem setRes0Nat_arg0 (n : Nat) (s : State) : (setRes0Nat n s).arg0 = s.arg0 := rfl
@[simp] theorem setRes0Nat_arg1 (n : Nat) (s : State) : (setRes0Nat n s).arg1 = s.arg1 := rfl
@[simp] theorem setRes0Nat_res0 (n : Nat) (s : State) : (setRes0Nat n s).res0 = BitVec.ofNat 32 n := rfl
@[simp] theorem setRes0Nat_res1 (n : Nat) (s : State) : (setRes0Nat n s).res1 = s.res1 := rfl
@[simp] theorem setRes0Nat_err (n : Nat) (s : State) : (setRes0Nat n s).err = s.err := rfl
@[simp] theorem setRes0Nat_run (n : Nat) (s : State) : (setRes0Nat n s).run = s.run := rfl
@[simp] theorem setRes0Nat_rxerr (n : Nat) (s : State) : (setRes0Nat n s).rxerr = s.rxerr := rfl
@[simp] theorem setRes0Nat_ownaddr (n : Nat) (s : State) : (setRes0Nat n s).ownaddr = s.ownaddr := rfl
@[simp] theorem setRes0Nat_crcacc (n : Nat) (s : State) : (setRes0Nat n s).crcacc = s.crcacc := rfl
@[simp] theorem setRes0Nat_ev0 (n : Nat) (s : State) : (setRes0Nat n s).ev0 = s.ev0 := rfl
@[simp] theorem setRes0Nat_ev1 (n : Nat) (s : State) : (setRes0Nat n s).ev1 = s.ev1 := rfl
@[simp] theorem setRes0Nat_rxframes (n : Nat) (s : State) : (setRes0Nat n s).rxframes = s.rxframes := rfl
@[simp] theorem setRes0Nat_rxbytes (n : Nat) (s : State) : (setRes0Nat n s).rxbytes = s.rxbytes := rfl
@[simp] theorem setRes0Nat_txframes (n : Nat) (s : State) : (setRes0Nat n s).txframes = s.txframes := rfl
@[simp] theorem setRes0Nat_txbytes (n : Nat) (s : State) : (setRes0Nat n s).txbytes = s.txbytes := rfl
@[simp] theorem setRes0Nat_rxdrop (n : Nat) (s : State) : (setRes0Nat n s).rxdrop = s.rxdrop := rfl
@[simp] theorem setRes0Nat_evie (n : Nat) (s : State) : (setRes0Nat n s).evie = s.evie := rfl
@[simp] theorem setRes0Nat_errie (n : Nat) (s : State) : (setRes0Nat n s).errie = s.errie := rfl
@[simp] theorem setRes0Nat_xbuf (n : Nat) (s : State) : (setRes0Nat n s).xbuf = s.xbuf := rfl
@[simp] theorem setRes0Nat_slots (n : Nat) (s : State) : (setRes0Nat n s).slots = s.slots := rfl
@[simp] theorem setRes0Nat_chains (n : Nat) (s : State) : (setRes0Nat n s).chains = s.chains := rfl
@[simp] theorem setRes0Nat_events (n : Nat) (s : State) : (setRes0Nat n s).events = s.events := rfl
@[simp] theorem setRes0Nat_rxin (n : Nat) (s : State) : (setRes0Nat n s).rxin = s.rxin := rfl
@[simp] theorem setRes0Nat_txout (n : Nat) (s : State) : (setRes0Nat n s).txout = s.txout := rfl
@[simp] theorem setRes0Nat_agenda (n : Nat) (s : State) : (setRes0Nat n s).agenda = s.agenda := rfl
@[simp] theorem setRes0Nat_readData (n : Nat) (s : State) : (setRes0Nat n s).readData = s.readData := rfl
@[simp] theorem setRes0Nat_txAnswers (n : Nat) (s : State) : (setRes0Nat n s).txAnswers = s.txAnswers := rfl
@[simp] theorem setRes0Nat_emits (n : Nat) (s : State) : (setRes0Nat n s).emits = s.emits := rfl
@[simp] theorem setRes0Nat_resets (n : Nat) (s : State) : (setRes0Nat n s).resets = s.resets := rfl

/-! ### setRes1Nat -/

@[simp] theorem setRes1Nat_params (n : Nat) (s : State) : (setRes1Nat n s).params = s.params := rfl
@[simp] theorem setRes1Nat_lastcmd (n : Nat) (s : State) : (setRes1Nat n s).lastcmd = s.lastcmd := rfl
@[simp] theorem setRes1Nat_arg0 (n : Nat) (s : State) : (setRes1Nat n s).arg0 = s.arg0 := rfl
@[simp] theorem setRes1Nat_arg1 (n : Nat) (s : State) : (setRes1Nat n s).arg1 = s.arg1 := rfl
@[simp] theorem setRes1Nat_res0 (n : Nat) (s : State) : (setRes1Nat n s).res0 = s.res0 := rfl
@[simp] theorem setRes1Nat_res1 (n : Nat) (s : State) : (setRes1Nat n s).res1 = BitVec.ofNat 32 n := rfl
@[simp] theorem setRes1Nat_err (n : Nat) (s : State) : (setRes1Nat n s).err = s.err := rfl
@[simp] theorem setRes1Nat_run (n : Nat) (s : State) : (setRes1Nat n s).run = s.run := rfl
@[simp] theorem setRes1Nat_rxerr (n : Nat) (s : State) : (setRes1Nat n s).rxerr = s.rxerr := rfl
@[simp] theorem setRes1Nat_ownaddr (n : Nat) (s : State) : (setRes1Nat n s).ownaddr = s.ownaddr := rfl
@[simp] theorem setRes1Nat_crcacc (n : Nat) (s : State) : (setRes1Nat n s).crcacc = s.crcacc := rfl
@[simp] theorem setRes1Nat_ev0 (n : Nat) (s : State) : (setRes1Nat n s).ev0 = s.ev0 := rfl
@[simp] theorem setRes1Nat_ev1 (n : Nat) (s : State) : (setRes1Nat n s).ev1 = s.ev1 := rfl
@[simp] theorem setRes1Nat_rxframes (n : Nat) (s : State) : (setRes1Nat n s).rxframes = s.rxframes := rfl
@[simp] theorem setRes1Nat_rxbytes (n : Nat) (s : State) : (setRes1Nat n s).rxbytes = s.rxbytes := rfl
@[simp] theorem setRes1Nat_txframes (n : Nat) (s : State) : (setRes1Nat n s).txframes = s.txframes := rfl
@[simp] theorem setRes1Nat_txbytes (n : Nat) (s : State) : (setRes1Nat n s).txbytes = s.txbytes := rfl
@[simp] theorem setRes1Nat_rxdrop (n : Nat) (s : State) : (setRes1Nat n s).rxdrop = s.rxdrop := rfl
@[simp] theorem setRes1Nat_evie (n : Nat) (s : State) : (setRes1Nat n s).evie = s.evie := rfl
@[simp] theorem setRes1Nat_errie (n : Nat) (s : State) : (setRes1Nat n s).errie = s.errie := rfl
@[simp] theorem setRes1Nat_xbuf (n : Nat) (s : State) : (setRes1Nat n s).xbuf = s.xbuf := rfl
@[simp] theorem setRes1Nat_slots (n : Nat) (s : State) : (setRes1Nat n s).slots = s.slots := rfl
@[simp] theorem setRes1Nat_chains (n : Nat) (s : State) : (setRes1Nat n s).chains = s.chains := rfl
@[simp] theorem setRes1Nat_events (n : Nat) (s : State) : (setRes1Nat n s).events = s.events := rfl
@[simp] theorem setRes1Nat_rxin (n : Nat) (s : State) : (setRes1Nat n s).rxin = s.rxin := rfl
@[simp] theorem setRes1Nat_txout (n : Nat) (s : State) : (setRes1Nat n s).txout = s.txout := rfl
@[simp] theorem setRes1Nat_agenda (n : Nat) (s : State) : (setRes1Nat n s).agenda = s.agenda := rfl
@[simp] theorem setRes1Nat_readData (n : Nat) (s : State) : (setRes1Nat n s).readData = s.readData := rfl
@[simp] theorem setRes1Nat_txAnswers (n : Nat) (s : State) : (setRes1Nat n s).txAnswers = s.txAnswers := rfl
@[simp] theorem setRes1Nat_emits (n : Nat) (s : State) : (setRes1Nat n s).emits = s.emits := rfl
@[simp] theorem setRes1Nat_resets (n : Nat) (s : State) : (setRes1Nat n s).resets = s.resets := rfl

/-! ### setSlot -/

@[simp] theorem setSlot_params (i : Nat) (x : Slot) (s : State) : (setSlot i x s).params = s.params := rfl
@[simp] theorem setSlot_lastcmd (i : Nat) (x : Slot) (s : State) : (setSlot i x s).lastcmd = s.lastcmd := rfl
@[simp] theorem setSlot_arg0 (i : Nat) (x : Slot) (s : State) : (setSlot i x s).arg0 = s.arg0 := rfl
@[simp] theorem setSlot_arg1 (i : Nat) (x : Slot) (s : State) : (setSlot i x s).arg1 = s.arg1 := rfl
@[simp] theorem setSlot_res0 (i : Nat) (x : Slot) (s : State) : (setSlot i x s).res0 = s.res0 := rfl
@[simp] theorem setSlot_res1 (i : Nat) (x : Slot) (s : State) : (setSlot i x s).res1 = s.res1 := rfl
@[simp] theorem setSlot_err (i : Nat) (x : Slot) (s : State) : (setSlot i x s).err = s.err := rfl
@[simp] theorem setSlot_run (i : Nat) (x : Slot) (s : State) : (setSlot i x s).run = s.run := rfl
@[simp] theorem setSlot_rxerr (i : Nat) (x : Slot) (s : State) : (setSlot i x s).rxerr = s.rxerr := rfl
@[simp] theorem setSlot_ownaddr (i : Nat) (x : Slot) (s : State) : (setSlot i x s).ownaddr = s.ownaddr := rfl
@[simp] theorem setSlot_crcacc (i : Nat) (x : Slot) (s : State) : (setSlot i x s).crcacc = s.crcacc := rfl
@[simp] theorem setSlot_ev0 (i : Nat) (x : Slot) (s : State) : (setSlot i x s).ev0 = s.ev0 := rfl
@[simp] theorem setSlot_ev1 (i : Nat) (x : Slot) (s : State) : (setSlot i x s).ev1 = s.ev1 := rfl
@[simp] theorem setSlot_rxframes (i : Nat) (x : Slot) (s : State) : (setSlot i x s).rxframes = s.rxframes := rfl
@[simp] theorem setSlot_rxbytes (i : Nat) (x : Slot) (s : State) : (setSlot i x s).rxbytes = s.rxbytes := rfl
@[simp] theorem setSlot_txframes (i : Nat) (x : Slot) (s : State) : (setSlot i x s).txframes = s.txframes := rfl
@[simp] theorem setSlot_txbytes (i : Nat) (x : Slot) (s : State) : (setSlot i x s).txbytes = s.txbytes := rfl
@[simp] theorem setSlot_rxdrop (i : Nat) (x : Slot) (s : State) : (setSlot i x s).rxdrop = s.rxdrop := rfl
@[simp] theorem setSlot_evie (i : Nat) (x : Slot) (s : State) : (setSlot i x s).evie = s.evie := rfl
@[simp] theorem setSlot_errie (i : Nat) (x : Slot) (s : State) : (setSlot i x s).errie = s.errie := rfl
@[simp] theorem setSlot_xbuf (i : Nat) (x : Slot) (s : State) : (setSlot i x s).xbuf = s.xbuf := rfl
@[simp] theorem setSlot_slots (i : Nat) (x : Slot) (s : State) : (setSlot i x s).slots = s.slots.set i x := rfl
@[simp] theorem setSlot_chains (i : Nat) (x : Slot) (s : State) : (setSlot i x s).chains = s.chains := rfl
@[simp] theorem setSlot_events (i : Nat) (x : Slot) (s : State) : (setSlot i x s).events = s.events := rfl
@[simp] theorem setSlot_rxin (i : Nat) (x : Slot) (s : State) : (setSlot i x s).rxin = s.rxin := rfl
@[simp] theorem setSlot_txout (i : Nat) (x : Slot) (s : State) : (setSlot i x s).txout = s.txout := rfl
@[simp] theorem setSlot_agenda (i : Nat) (x : Slot) (s : State) : (setSlot i x s).agenda = s.agenda := rfl
@[simp] theorem setSlot_readData (i : Nat) (x : Slot) (s : State) : (setSlot i x s).readData = s.readData := rfl
@[simp] theorem setSlot_txAnswers (i : Nat) (x : Slot) (s : State) : (setSlot i x s).txAnswers = s.txAnswers := rfl
@[simp] theorem setSlot_emits (i : Nat) (x : Slot) (s : State) : (setSlot i x s).emits = s.emits := rfl
@[simp] theorem setSlot_resets (i : Nat) (x : Slot) (s : State) : (setSlot i x s).resets = s.resets := rfl

/-! ### setChain -/

@[simp] theorem setChain_params (c : Nat) (x : Chain) (s : State) : (setChain c x s).params = s.params := rfl
@[simp] theorem setChain_lastcmd (c : Nat) (x : Chain) (s : State) : (setChain c x s).lastcmd = s.lastcmd := rfl
@[simp] theorem setChain_arg0 (c : Nat) (x : Chain) (s : State) : (setChain c x s).arg0 = s.arg0 := rfl
@[simp] theorem setChain_arg1 (c : Nat) (x : Chain) (s : State) : (setChain c x s).arg1 = s.arg1 := rfl
@[simp] theorem setChain_res0 (c : Nat) (x : Chain) (s : State) : (setChain c x s).res0 = s.res0 := rfl
@[simp] theorem setChain_res1 (c : Nat) (x : Chain) (s : State) : (setChain c x s).res1 = s.res1 := rfl
@[simp] theorem setChain_err (c : Nat) (x : Chain) (s : State) : (setChain c x s).err = s.err := rfl
@[simp] theorem setChain_run (c : Nat) (x : Chain) (s : State) : (setChain c x s).run = s.run := rfl
@[simp] theorem setChain_rxerr (c : Nat) (x : Chain) (s : State) : (setChain c x s).rxerr = s.rxerr := rfl
@[simp] theorem setChain_ownaddr (c : Nat) (x : Chain) (s : State) : (setChain c x s).ownaddr = s.ownaddr := rfl
@[simp] theorem setChain_crcacc (c : Nat) (x : Chain) (s : State) : (setChain c x s).crcacc = s.crcacc := rfl
@[simp] theorem setChain_ev0 (c : Nat) (x : Chain) (s : State) : (setChain c x s).ev0 = s.ev0 := rfl
@[simp] theorem setChain_ev1 (c : Nat) (x : Chain) (s : State) : (setChain c x s).ev1 = s.ev1 := rfl
@[simp] theorem setChain_rxframes (c : Nat) (x : Chain) (s : State) : (setChain c x s).rxframes = s.rxframes := rfl
@[simp] theorem setChain_rxbytes (c : Nat) (x : Chain) (s : State) : (setChain c x s).rxbytes = s.rxbytes := rfl
@[simp] theorem setChain_txframes (c : Nat) (x : Chain) (s : State) : (setChain c x s).txframes = s.txframes := rfl
@[simp] theorem setChain_txbytes (c : Nat) (x : Chain) (s : State) : (setChain c x s).txbytes = s.txbytes := rfl
@[simp] theorem setChain_rxdrop (c : Nat) (x : Chain) (s : State) : (setChain c x s).rxdrop = s.rxdrop := rfl
@[simp] theorem setChain_evie (c : Nat) (x : Chain) (s : State) : (setChain c x s).evie = s.evie := rfl
@[simp] theorem setChain_errie (c : Nat) (x : Chain) (s : State) : (setChain c x s).errie = s.errie := rfl
@[simp] theorem setChain_xbuf (c : Nat) (x : Chain) (s : State) : (setChain c x s).xbuf = s.xbuf := rfl
@[simp] theorem setChain_slots (c : Nat) (x : Chain) (s : State) : (setChain c x s).slots = s.slots := rfl
@[simp] theorem setChain_chains (c : Nat) (x : Chain) (s : State) : (setChain c x s).chains = s.chains.set c x := rfl
@[simp] theorem setChain_events (c : Nat) (x : Chain) (s : State) : (setChain c x s).events = s.events := rfl
@[simp] theorem setChain_rxin (c : Nat) (x : Chain) (s : State) : (setChain c x s).rxin = s.rxin := rfl
@[simp] theorem setChain_txout (c : Nat) (x : Chain) (s : State) : (setChain c x s).txout = s.txout := rfl
@[simp] theorem setChain_agenda (c : Nat) (x : Chain) (s : State) : (setChain c x s).agenda = s.agenda := rfl
@[simp] theorem setChain_readData (c : Nat) (x : Chain) (s : State) : (setChain c x s).readData = s.readData := rfl
@[simp] theorem setChain_txAnswers (c : Nat) (x : Chain) (s : State) : (setChain c x s).txAnswers = s.txAnswers := rfl
@[simp] theorem setChain_emits (c : Nat) (x : Chain) (s : State) : (setChain c x s).emits = s.emits := rfl
@[simp] theorem setChain_resets (c : Nat) (x : Chain) (s : State) : (setChain c x s).resets = s.resets := rfl

/-! ### drop -/

@[simp] theorem drop_params (s : State) : (drop s).params = s.params := rfl
@[simp] theorem drop_lastcmd (s : State) : (drop s).lastcmd = s.lastcmd := rfl
@[simp] theorem drop_arg0 (s : State) : (drop s).arg0 = s.arg0 := rfl
@[simp] theorem drop_arg1 (s : State) : (drop s).arg1 = s.arg1 := rfl
@[simp] theorem drop_res0 (s : State) : (drop s).res0 = s.res0 := rfl
@[simp] theorem drop_res1 (s : State) : (drop s).res1 = s.res1 := rfl
@[simp] theorem drop_err (s : State) : (drop s).err = s.err := rfl
@[simp] theorem drop_run (s : State) : (drop s).run = s.run := rfl
@[simp] theorem drop_rxerr (s : State) : (drop s).rxerr = s.rxerr := rfl
@[simp] theorem drop_ownaddr (s : State) : (drop s).ownaddr = s.ownaddr := rfl
@[simp] theorem drop_crcacc (s : State) : (drop s).crcacc = s.crcacc := rfl
@[simp] theorem drop_ev0 (s : State) : (drop s).ev0 = s.ev0 := rfl
@[simp] theorem drop_ev1 (s : State) : (drop s).ev1 = s.ev1 := rfl
@[simp] theorem drop_rxframes (s : State) : (drop s).rxframes = s.rxframes := rfl
@[simp] theorem drop_rxbytes (s : State) : (drop s).rxbytes = s.rxbytes := rfl
@[simp] theorem drop_txframes (s : State) : (drop s).txframes = s.txframes := rfl
@[simp] theorem drop_txbytes (s : State) : (drop s).txbytes = s.txbytes := rfl
@[simp] theorem drop_rxdrop (s : State) : (drop s).rxdrop = s.rxdrop + 1 := rfl
@[simp] theorem drop_evie (s : State) : (drop s).evie = s.evie := rfl
@[simp] theorem drop_errie (s : State) : (drop s).errie = s.errie := rfl
@[simp] theorem drop_xbuf (s : State) : (drop s).xbuf = s.xbuf := rfl
@[simp] theorem drop_slots (s : State) : (drop s).slots = s.slots := rfl
@[simp] theorem drop_chains (s : State) : (drop s).chains = s.chains := rfl
@[simp] theorem drop_events (s : State) : (drop s).events = s.events := rfl
@[simp] theorem drop_rxin (s : State) : (drop s).rxin = s.rxin := rfl
@[simp] theorem drop_txout (s : State) : (drop s).txout = s.txout := rfl
@[simp] theorem drop_agenda (s : State) : (drop s).agenda = s.agenda := rfl
@[simp] theorem drop_readData (s : State) : (drop s).readData = s.readData := rfl
@[simp] theorem drop_txAnswers (s : State) : (drop s).txAnswers = s.txAnswers := rfl
@[simp] theorem drop_emits (s : State) : (drop s).emits = s.emits := rfl
@[simp] theorem drop_resets (s : State) : (drop s).resets = s.resets := rfl

/-! ### take -/

@[simp] theorem take_params (f : Frame) (s : State) : (take f s).params = s.params := rfl
@[simp] theorem take_lastcmd (f : Frame) (s : State) : (take f s).lastcmd = s.lastcmd := rfl
@[simp] theorem take_arg0 (f : Frame) (s : State) : (take f s).arg0 = s.arg0 := rfl
@[simp] theorem take_arg1 (f : Frame) (s : State) : (take f s).arg1 = s.arg1 := rfl
@[simp] theorem take_res0 (f : Frame) (s : State) : (take f s).res0 = s.res0 := rfl
@[simp] theorem take_res1 (f : Frame) (s : State) : (take f s).res1 = s.res1 := rfl
@[simp] theorem take_err (f : Frame) (s : State) : (take f s).err = s.err := rfl
@[simp] theorem take_run (f : Frame) (s : State) : (take f s).run = s.run := rfl
@[simp] theorem take_rxerr (f : Frame) (s : State) : (take f s).rxerr = s.rxerr := rfl
@[simp] theorem take_ownaddr (f : Frame) (s : State) : (take f s).ownaddr = s.ownaddr := rfl
@[simp] theorem take_crcacc (f : Frame) (s : State) : (take f s).crcacc = s.crcacc := rfl
@[simp] theorem take_ev0 (f : Frame) (s : State) : (take f s).ev0 = s.ev0 := rfl
@[simp] theorem take_ev1 (f : Frame) (s : State) : (take f s).ev1 = s.ev1 := rfl
@[simp] theorem take_rxframes (f : Frame) (s : State) : (take f s).rxframes = s.rxframes + 1 := rfl
@[simp] theorem take_rxbytes (f : Frame) (s : State) : (take f s).rxbytes = s.rxbytes + f.dlc.setWidth 32 := rfl
@[simp] theorem take_txframes (f : Frame) (s : State) : (take f s).txframes = s.txframes := rfl
@[simp] theorem take_txbytes (f : Frame) (s : State) : (take f s).txbytes = s.txbytes := rfl
@[simp] theorem take_rxdrop (f : Frame) (s : State) : (take f s).rxdrop = s.rxdrop := rfl
@[simp] theorem take_evie (f : Frame) (s : State) : (take f s).evie = s.evie := rfl
@[simp] theorem take_errie (f : Frame) (s : State) : (take f s).errie = s.errie := rfl
@[simp] theorem take_xbuf (f : Frame) (s : State) : (take f s).xbuf = s.xbuf := rfl
@[simp] theorem take_slots (f : Frame) (s : State) : (take f s).slots = s.slots := rfl
@[simp] theorem take_chains (f : Frame) (s : State) : (take f s).chains = s.chains := rfl
@[simp] theorem take_events (f : Frame) (s : State) : (take f s).events = s.events := rfl
@[simp] theorem take_rxin (f : Frame) (s : State) : (take f s).rxin = s.rxin := rfl
@[simp] theorem take_txout (f : Frame) (s : State) : (take f s).txout = s.txout := rfl
@[simp] theorem take_agenda (f : Frame) (s : State) : (take f s).agenda = s.agenda := rfl
@[simp] theorem take_readData (f : Frame) (s : State) : (take f s).readData = s.readData := rfl
@[simp] theorem take_txAnswers (f : Frame) (s : State) : (take f s).txAnswers = s.txAnswers := rfl
@[simp] theorem take_emits (f : Frame) (s : State) : (take f s).emits = s.emits := rfl
@[simp] theorem take_resets (f : Frame) (s : State) : (take f s).resets = s.resets := rfl

/-! ### post -/

@[simp] theorem post_params (e : Event) (s : State) : (post e s).params = s.params := rfl
@[simp] theorem post_lastcmd (e : Event) (s : State) : (post e s).lastcmd = s.lastcmd := rfl
@[simp] theorem post_arg0 (e : Event) (s : State) : (post e s).arg0 = s.arg0 := rfl
@[simp] theorem post_arg1 (e : Event) (s : State) : (post e s).arg1 = s.arg1 := rfl
@[simp] theorem post_res0 (e : Event) (s : State) : (post e s).res0 = s.res0 := rfl
@[simp] theorem post_res1 (e : Event) (s : State) : (post e s).res1 = s.res1 := rfl
@[simp] theorem post_err (e : Event) (s : State) : (post e s).err = s.err := rfl
@[simp] theorem post_run (e : Event) (s : State) : (post e s).run = s.run := rfl
@[simp] theorem post_rxerr (e : Event) (s : State) : (post e s).rxerr = s.rxerr := rfl
@[simp] theorem post_ownaddr (e : Event) (s : State) : (post e s).ownaddr = s.ownaddr := rfl
@[simp] theorem post_crcacc (e : Event) (s : State) : (post e s).crcacc = s.crcacc := rfl
@[simp] theorem post_ev0 (e : Event) (s : State) : (post e s).ev0 = s.ev0 := rfl
@[simp] theorem post_ev1 (e : Event) (s : State) : (post e s).ev1 = s.ev1 := rfl
@[simp] theorem post_rxframes (e : Event) (s : State) : (post e s).rxframes = s.rxframes := rfl
@[simp] theorem post_rxbytes (e : Event) (s : State) : (post e s).rxbytes = s.rxbytes := rfl
@[simp] theorem post_txframes (e : Event) (s : State) : (post e s).txframes = s.txframes := rfl
@[simp] theorem post_txbytes (e : Event) (s : State) : (post e s).txbytes = s.txbytes := rfl
@[simp] theorem post_rxdrop (e : Event) (s : State) : (post e s).rxdrop = s.rxdrop := rfl
@[simp] theorem post_evie (e : Event) (s : State) : (post e s).evie = s.evie := rfl
@[simp] theorem post_errie (e : Event) (s : State) : (post e s).errie = s.errie := rfl
@[simp] theorem post_xbuf (e : Event) (s : State) : (post e s).xbuf = s.xbuf := rfl
@[simp] theorem post_slots (e : Event) (s : State) : (post e s).slots = s.slots := rfl
@[simp] theorem post_chains (e : Event) (s : State) : (post e s).chains = s.chains := rfl
@[simp] theorem post_events (e : Event) (s : State) : (post e s).events = s.events ++ [e] := rfl
@[simp] theorem post_rxin (e : Event) (s : State) : (post e s).rxin = s.rxin := rfl
@[simp] theorem post_txout (e : Event) (s : State) : (post e s).txout = s.txout := rfl
@[simp] theorem post_agenda (e : Event) (s : State) : (post e s).agenda = s.agenda := rfl
@[simp] theorem post_readData (e : Event) (s : State) : (post e s).readData = s.readData := rfl
@[simp] theorem post_txAnswers (e : Event) (s : State) : (post e s).txAnswers = s.txAnswers := rfl
@[simp] theorem post_emits (e : Event) (s : State) : (post e s).emits = s.emits := rfl
@[simp] theorem post_resets (e : Event) (s : State) : (post e s).resets = s.resets := rfl

/-! ### answerUsed -/

@[simp] theorem answerUsed_params (s : State) : (answerUsed s).params = s.params := rfl
@[simp] theorem answerUsed_lastcmd (s : State) : (answerUsed s).lastcmd = s.lastcmd := rfl
@[simp] theorem answerUsed_arg0 (s : State) : (answerUsed s).arg0 = s.arg0 := rfl
@[simp] theorem answerUsed_arg1 (s : State) : (answerUsed s).arg1 = s.arg1 := rfl
@[simp] theorem answerUsed_res0 (s : State) : (answerUsed s).res0 = s.res0 := rfl
@[simp] theorem answerUsed_res1 (s : State) : (answerUsed s).res1 = s.res1 := rfl
@[simp] theorem answerUsed_err (s : State) : (answerUsed s).err = s.err := rfl
@[simp] theorem answerUsed_run (s : State) : (answerUsed s).run = s.run := rfl
@[simp] theorem answerUsed_rxerr (s : State) : (answerUsed s).rxerr = s.rxerr := rfl
@[simp] theorem answerUsed_ownaddr (s : State) : (answerUsed s).ownaddr = s.ownaddr := rfl
@[simp] theorem answerUsed_crcacc (s : State) : (answerUsed s).crcacc = s.crcacc := rfl
@[simp] theorem answerUsed_ev0 (s : State) : (answerUsed s).ev0 = s.ev0 := rfl
@[simp] theorem answerUsed_ev1 (s : State) : (answerUsed s).ev1 = s.ev1 := rfl
@[simp] theorem answerUsed_rxframes (s : State) : (answerUsed s).rxframes = s.rxframes := rfl
@[simp] theorem answerUsed_rxbytes (s : State) : (answerUsed s).rxbytes = s.rxbytes := rfl
@[simp] theorem answerUsed_txframes (s : State) : (answerUsed s).txframes = s.txframes := rfl
@[simp] theorem answerUsed_txbytes (s : State) : (answerUsed s).txbytes = s.txbytes := rfl
@[simp] theorem answerUsed_rxdrop (s : State) : (answerUsed s).rxdrop = s.rxdrop := rfl
@[simp] theorem answerUsed_evie (s : State) : (answerUsed s).evie = s.evie := rfl
@[simp] theorem answerUsed_errie (s : State) : (answerUsed s).errie = s.errie := rfl
@[simp] theorem answerUsed_xbuf (s : State) : (answerUsed s).xbuf = s.xbuf := rfl
@[simp] theorem answerUsed_slots (s : State) : (answerUsed s).slots = s.slots := rfl
@[simp] theorem answerUsed_chains (s : State) : (answerUsed s).chains = s.chains := rfl
@[simp] theorem answerUsed_events (s : State) : (answerUsed s).events = s.events := rfl
@[simp] theorem answerUsed_rxin (s : State) : (answerUsed s).rxin = s.rxin := rfl
@[simp] theorem answerUsed_txout (s : State) : (answerUsed s).txout = s.txout := rfl
@[simp] theorem answerUsed_agenda (s : State) : (answerUsed s).agenda = s.agenda := rfl
@[simp] theorem answerUsed_readData (s : State) : (answerUsed s).readData = s.readData := rfl
@[simp] theorem answerUsed_txAnswers (s : State) : (answerUsed s).txAnswers = s.txAnswers.tail := rfl
@[simp] theorem answerUsed_emits (s : State) : (answerUsed s).emits = s.emits + 1 := rfl
@[simp] theorem answerUsed_resets (s : State) : (answerUsed s).resets = s.resets := rfl

/-! ### xwrite and xwriteRange: only XBUF changes -/

@[simp] theorem xwrite_params (k : Nat) (b : Byte) (s : State) : (xwrite k b s).params = s.params := by
  unfold xwrite; split <;> rfl
@[simp] theorem xwrite_lastcmd (k : Nat) (b : Byte) (s : State) : (xwrite k b s).lastcmd = s.lastcmd := by
  unfold xwrite; split <;> rfl
@[simp] theorem xwrite_arg0 (k : Nat) (b : Byte) (s : State) : (xwrite k b s).arg0 = s.arg0 := by
  unfold xwrite; split <;> rfl
@[simp] theorem xwrite_arg1 (k : Nat) (b : Byte) (s : State) : (xwrite k b s).arg1 = s.arg1 := by
  unfold xwrite; split <;> rfl
@[simp] theorem xwrite_res0 (k : Nat) (b : Byte) (s : State) : (xwrite k b s).res0 = s.res0 := by
  unfold xwrite; split <;> rfl
@[simp] theorem xwrite_res1 (k : Nat) (b : Byte) (s : State) : (xwrite k b s).res1 = s.res1 := by
  unfold xwrite; split <;> rfl
@[simp] theorem xwrite_err (k : Nat) (b : Byte) (s : State) : (xwrite k b s).err = s.err := by
  unfold xwrite; split <;> rfl
@[simp] theorem xwrite_run (k : Nat) (b : Byte) (s : State) : (xwrite k b s).run = s.run := by
  unfold xwrite; split <;> rfl
@[simp] theorem xwrite_rxerr (k : Nat) (b : Byte) (s : State) : (xwrite k b s).rxerr = s.rxerr := by
  unfold xwrite; split <;> rfl
@[simp] theorem xwrite_ownaddr (k : Nat) (b : Byte) (s : State) : (xwrite k b s).ownaddr = s.ownaddr := by
  unfold xwrite; split <;> rfl
@[simp] theorem xwrite_crcacc (k : Nat) (b : Byte) (s : State) : (xwrite k b s).crcacc = s.crcacc := by
  unfold xwrite; split <;> rfl
@[simp] theorem xwrite_ev0 (k : Nat) (b : Byte) (s : State) : (xwrite k b s).ev0 = s.ev0 := by
  unfold xwrite; split <;> rfl
@[simp] theorem xwrite_ev1 (k : Nat) (b : Byte) (s : State) : (xwrite k b s).ev1 = s.ev1 := by
  unfold xwrite; split <;> rfl
@[simp] theorem xwrite_rxframes (k : Nat) (b : Byte) (s : State) : (xwrite k b s).rxframes = s.rxframes := by
  unfold xwrite; split <;> rfl
@[simp] theorem xwrite_rxbytes (k : Nat) (b : Byte) (s : State) : (xwrite k b s).rxbytes = s.rxbytes := by
  unfold xwrite; split <;> rfl
@[simp] theorem xwrite_txframes (k : Nat) (b : Byte) (s : State) : (xwrite k b s).txframes = s.txframes := by
  unfold xwrite; split <;> rfl
@[simp] theorem xwrite_txbytes (k : Nat) (b : Byte) (s : State) : (xwrite k b s).txbytes = s.txbytes := by
  unfold xwrite; split <;> rfl
@[simp] theorem xwrite_rxdrop (k : Nat) (b : Byte) (s : State) : (xwrite k b s).rxdrop = s.rxdrop := by
  unfold xwrite; split <;> rfl
@[simp] theorem xwrite_evie (k : Nat) (b : Byte) (s : State) : (xwrite k b s).evie = s.evie := by
  unfold xwrite; split <;> rfl
@[simp] theorem xwrite_errie (k : Nat) (b : Byte) (s : State) : (xwrite k b s).errie = s.errie := by
  unfold xwrite; split <;> rfl
@[simp] theorem xwrite_slots (k : Nat) (b : Byte) (s : State) : (xwrite k b s).slots = s.slots := by
  unfold xwrite; split <;> rfl
@[simp] theorem xwrite_chains (k : Nat) (b : Byte) (s : State) : (xwrite k b s).chains = s.chains := by
  unfold xwrite; split <;> rfl
@[simp] theorem xwrite_events (k : Nat) (b : Byte) (s : State) : (xwrite k b s).events = s.events := by
  unfold xwrite; split <;> rfl
@[simp] theorem xwrite_rxin (k : Nat) (b : Byte) (s : State) : (xwrite k b s).rxin = s.rxin := by
  unfold xwrite; split <;> rfl
@[simp] theorem xwrite_txout (k : Nat) (b : Byte) (s : State) : (xwrite k b s).txout = s.txout := by
  unfold xwrite; split <;> rfl
@[simp] theorem xwrite_agenda (k : Nat) (b : Byte) (s : State) : (xwrite k b s).agenda = s.agenda := by
  unfold xwrite; split <;> rfl
@[simp] theorem xwrite_readData (k : Nat) (b : Byte) (s : State) : (xwrite k b s).readData = s.readData := by
  unfold xwrite; split <;> rfl
@[simp] theorem xwrite_txAnswers (k : Nat) (b : Byte) (s : State) : (xwrite k b s).txAnswers = s.txAnswers := by
  unfold xwrite; split <;> rfl
@[simp] theorem xwrite_emits (k : Nat) (b : Byte) (s : State) : (xwrite k b s).emits = s.emits := by
  unfold xwrite; split <;> rfl
@[simp] theorem xwrite_resets (k : Nat) (b : Byte) (s : State) : (xwrite k b s).resets = s.resets := by
  unfold xwrite; split <;> rfl

@[simp] theorem xwriteRange_params (k : Nat) (b : List Byte) (s : State) : (xwriteRange k b s).params = s.params := by
  induction b generalizing k s with
  | nil => rfl
  | cons x b ih => simp [xwriteRange, ih]
@[simp] theorem xwriteRange_lastcmd (k : Nat) (b : List Byte) (s : State) : (xwriteRange k b s).lastcmd = s.lastcmd := by
  induction b generalizing k s with
  | nil => rfl
  | cons x b ih => simp [xwriteRange, ih]
@[simp] theorem xwriteRange_arg0 (k : Nat) (b : List Byte) (s : State) : (xwriteRange k b s).arg0 = s.arg0 := by
  induction b generalizing k s with
  | nil => rfl
  | cons x b ih => simp [xwriteRange, ih]
@[simp] theorem xwriteRange_arg1 (k : Nat) (b : List Byte) (s : State) : (xwriteRange k b s).arg1 = s.arg1 := by
  induction b generalizing k s with
  | nil => rfl
  | cons x b ih => simp [xwriteRange, ih]
@[simp] theorem xwriteRange_res0 (k : Nat) (b : List Byte) (s : State) : (xwriteRange k b s).res0 = s.res0 := by
  induction b generalizing k s with
  | nil => rfl
  | cons x b ih => simp [xwriteRange, ih]
@[simp] theorem xwriteRange_res1 (k : Nat) (b : List Byte) (s : State) : (xwriteRange k b s).res1 = s.res1 := by
  induction b generalizing k s with
  | nil => rfl
  | cons x b ih => simp [xwriteRange, ih]
@[simp] theorem xwriteRange_err (k : Nat) (b : List Byte) (s : State) : (xwriteRange k b s).err = s.err := by
  induction b generalizing k s with
  | nil => rfl
  | cons x b ih => simp [xwriteRange, ih]
@[simp] theorem xwriteRange_run (k : Nat) (b : List Byte) (s : State) : (xwriteRange k b s).run = s.run := by
  induction b generalizing k s with
  | nil => rfl
  | cons x b ih => simp [xwriteRange, ih]
@[simp] theorem xwriteRange_rxerr (k : Nat) (b : List Byte) (s : State) : (xwriteRange k b s).rxerr = s.rxerr := by
  induction b generalizing k s with
  | nil => rfl
  | cons x b ih => simp [xwriteRange, ih]
@[simp] theorem xwriteRange_ownaddr (k : Nat) (b : List Byte) (s : State) : (xwriteRange k b s).ownaddr = s.ownaddr := by
  induction b generalizing k s with
  | nil => rfl
  | cons x b ih => simp [xwriteRange, ih]
@[simp] theorem xwriteRange_crcacc (k : Nat) (b : List Byte) (s : State) : (xwriteRange k b s).crcacc = s.crcacc := by
  induction b generalizing k s with
  | nil => rfl
  | cons x b ih => simp [xwriteRange, ih]
@[simp] theorem xwriteRange_ev0 (k : Nat) (b : List Byte) (s : State) : (xwriteRange k b s).ev0 = s.ev0 := by
  induction b generalizing k s with
  | nil => rfl
  | cons x b ih => simp [xwriteRange, ih]
@[simp] theorem xwriteRange_ev1 (k : Nat) (b : List Byte) (s : State) : (xwriteRange k b s).ev1 = s.ev1 := by
  induction b generalizing k s with
  | nil => rfl
  | cons x b ih => simp [xwriteRange, ih]
@[simp] theorem xwriteRange_rxframes (k : Nat) (b : List Byte) (s : State) : (xwriteRange k b s).rxframes = s.rxframes := by
  induction b generalizing k s with
  | nil => rfl
  | cons x b ih => simp [xwriteRange, ih]
@[simp] theorem xwriteRange_rxbytes (k : Nat) (b : List Byte) (s : State) : (xwriteRange k b s).rxbytes = s.rxbytes := by
  induction b generalizing k s with
  | nil => rfl
  | cons x b ih => simp [xwriteRange, ih]
@[simp] theorem xwriteRange_txframes (k : Nat) (b : List Byte) (s : State) : (xwriteRange k b s).txframes = s.txframes := by
  induction b generalizing k s with
  | nil => rfl
  | cons x b ih => simp [xwriteRange, ih]
@[simp] theorem xwriteRange_txbytes (k : Nat) (b : List Byte) (s : State) : (xwriteRange k b s).txbytes = s.txbytes := by
  induction b generalizing k s with
  | nil => rfl
  | cons x b ih => simp [xwriteRange, ih]
@[simp] theorem xwriteRange_rxdrop (k : Nat) (b : List Byte) (s : State) : (xwriteRange k b s).rxdrop = s.rxdrop := by
  induction b generalizing k s with
  | nil => rfl
  | cons x b ih => simp [xwriteRange, ih]
@[simp] theorem xwriteRange_evie (k : Nat) (b : List Byte) (s : State) : (xwriteRange k b s).evie = s.evie := by
  induction b generalizing k s with
  | nil => rfl
  | cons x b ih => simp [xwriteRange, ih]
@[simp] theorem xwriteRange_errie (k : Nat) (b : List Byte) (s : State) : (xwriteRange k b s).errie = s.errie := by
  induction b generalizing k s with
  | nil => rfl
  | cons x b ih => simp [xwriteRange, ih]
@[simp] theorem xwriteRange_slots (k : Nat) (b : List Byte) (s : State) : (xwriteRange k b s).slots = s.slots := by
  induction b generalizing k s with
  | nil => rfl
  | cons x b ih => simp [xwriteRange, ih]
@[simp] theorem xwriteRange_chains (k : Nat) (b : List Byte) (s : State) : (xwriteRange k b s).chains = s.chains := by
  induction b generalizing k s with
  | nil => rfl
  | cons x b ih => simp [xwriteRange, ih]
@[simp] theorem xwriteRange_events (k : Nat) (b : List Byte) (s : State) : (xwriteRange k b s).events = s.events := by
  induction b generalizing k s with
  | nil => rfl
  | cons x b ih => simp [xwriteRange, ih]
@[simp] theorem xwriteRange_rxin (k : Nat) (b : List Byte) (s : State) : (xwriteRange k b s).rxin = s.rxin := by
  induction b generalizing k s with
  | nil => rfl
  | cons x b ih => simp [xwriteRange, ih]
@[simp] theorem xwriteRange_txout (k : Nat) (b : List Byte) (s : State) : (xwriteRange k b s).txout = s.txout := by
  induction b generalizing k s with
  | nil => rfl
  | cons x b ih => simp [xwriteRange, ih]
@[simp] theorem xwriteRange_agenda (k : Nat) (b : List Byte) (s : State) : (xwriteRange k b s).agenda = s.agenda := by
  induction b generalizing k s with
  | nil => rfl
  | cons x b ih => simp [xwriteRange, ih]
@[simp] theorem xwriteRange_readData (k : Nat) (b : List Byte) (s : State) : (xwriteRange k b s).readData = s.readData := by
  induction b generalizing k s with
  | nil => rfl
  | cons x b ih => simp [xwriteRange, ih]
@[simp] theorem xwriteRange_txAnswers (k : Nat) (b : List Byte) (s : State) : (xwriteRange k b s).txAnswers = s.txAnswers := by
  induction b generalizing k s with
  | nil => rfl
  | cons x b ih => simp [xwriteRange, ih]
@[simp] theorem xwriteRange_emits (k : Nat) (b : List Byte) (s : State) : (xwriteRange k b s).emits = s.emits := by
  induction b generalizing k s with
  | nil => rfl
  | cons x b ih => simp [xwriteRange, ih]
@[simp] theorem xwriteRange_resets (k : Nat) (b : List Byte) (s : State) : (xwriteRange k b s).resets = s.resets := by
  induction b generalizing k s with
  | nil => rfl
  | cons x b ih => simp [xwriteRange, ih]

/-! ### Slots and chains after an update -/

theorem slotAt_setSlot_same {i : Nat} (x : Slot) (h : i < s.slots.length) : slotAt (setSlot i x s) i = x := by
  simp [slotAt, h]

theorem slotAt_setSlot_ne {i j : Nat} (x : Slot) (h : i ≠ j) : slotAt (setSlot i x s) j = slotAt s j := by
  simp [slotAt, h]

theorem slotAt_setSlot (i j : Nat) (x : Slot) :
    slotAt (setSlot i x s) j = if i = j ∧ j < s.slots.length then x else slotAt s j := by
  by_cases h : i = j
  · subst h
    by_cases hi : i < s.slots.length
    · simp [slotAt, hi]
    · simp [slotAt, hi]
  · simp [slotAt_setSlot_ne x h, h]

theorem chainAt_setChain_same {c : Nat} (x : Chain) (h : c < s.chains.length) :
    chainAt (setChain c x s) c = x := by
  simp [chainAt, h]

theorem chainAt_setChain_ne {c d : Nat} (x : Chain) (h : c ≠ d) : chainAt (setChain c x s) d = chainAt s d := by
  simp [chainAt, h]

theorem chainAt_setChain (c d : Nat) (x : Chain) :
    chainAt (setChain c x s) d = if c = d ∧ d < s.chains.length then x else chainAt s d := by
  by_cases h : c = d
  · subst h
    by_cases hi : c < s.chains.length
    · simp [chainAt, hi]
    · simp [chainAt, hi]
  · simp [chainAt_setChain_ne x h, h]

@[simp] theorem slotAt_fail (e : ErrCode) (s : State) (j : Nat) : slotAt (fail e s) j = slotAt s j := rfl
@[simp] theorem chainAt_fail (e : ErrCode) (s : State) (j : Nat) : chainAt (fail e s) j = chainAt s j := rfl
@[simp] theorem slotAt_done (s : State) (j : Nat) : slotAt (done s) j = slotAt s j := rfl
@[simp] theorem chainAt_done (s : State) (j : Nat) : chainAt (done s) j = chainAt s j := rfl
@[simp] theorem slotAt_setRes0 (v : Word) (s : State) (j : Nat) : slotAt (setRes0 v s) j = slotAt s j := rfl
@[simp] theorem chainAt_setRes0 (v : Word) (s : State) (j : Nat) : chainAt (setRes0 v s) j = chainAt s j := rfl
@[simp] theorem slotAt_setRes1 (v : Word) (s : State) (j : Nat) : slotAt (setRes1 v s) j = slotAt s j := rfl
@[simp] theorem chainAt_setRes1 (v : Word) (s : State) (j : Nat) : chainAt (setRes1 v s) j = chainAt s j := rfl
@[simp] theorem slotAt_setRes0Nat (n : Nat) (s : State) (j : Nat) : slotAt (setRes0Nat n s) j = slotAt s j := rfl
@[simp] theorem chainAt_setRes0Nat (n : Nat) (s : State) (j : Nat) : chainAt (setRes0Nat n s) j = chainAt s j := rfl
@[simp] theorem slotAt_setRes1Nat (n : Nat) (s : State) (j : Nat) : slotAt (setRes1Nat n s) j = slotAt s j := rfl
@[simp] theorem chainAt_setRes1Nat (n : Nat) (s : State) (j : Nat) : chainAt (setRes1Nat n s) j = chainAt s j := rfl
@[simp] theorem chainAt_setSlot (i : Nat) (x : Slot) (s : State) (j : Nat) : chainAt (setSlot i x s) j = chainAt s j := rfl
@[simp] theorem slotAt_setChain (c : Nat) (x : Chain) (s : State) (j : Nat) : slotAt (setChain c x s) j = slotAt s j := rfl
@[simp] theorem slotAt_drop (s : State) (j : Nat) : slotAt (drop s) j = slotAt s j := rfl
@[simp] theorem chainAt_drop (s : State) (j : Nat) : chainAt (drop s) j = chainAt s j := rfl
@[simp] theorem slotAt_take (f : Frame) (s : State) (j : Nat) : slotAt (take f s) j = slotAt s j := rfl
@[simp] theorem chainAt_take (f : Frame) (s : State) (j : Nat) : chainAt (take f s) j = chainAt s j := rfl
@[simp] theorem slotAt_post (e : Event) (s : State) (j : Nat) : slotAt (post e s) j = slotAt s j := rfl
@[simp] theorem chainAt_post (e : Event) (s : State) (j : Nat) : chainAt (post e s) j = chainAt s j := rfl
@[simp] theorem slotAt_answerUsed (s : State) (j : Nat) : slotAt (answerUsed s) j = slotAt s j := rfl
@[simp] theorem chainAt_answerUsed (s : State) (j : Nat) : chainAt (answerUsed s) j = chainAt s j := rfl
@[simp] theorem slotAt_xwrite (k : Nat) (b : Byte) (s : State) (j : Nat) : slotAt (xwrite k b s) j = slotAt s j := by
  simp [slotAt]
@[simp] theorem chainAt_xwrite (k : Nat) (b : Byte) (s : State) (j : Nat) : chainAt (xwrite k b s) j = chainAt s j := by
  simp [chainAt]
@[simp] theorem slotAt_xwriteRange (k : Nat) (b : List Byte) (s : State) (j : Nat) : slotAt (xwriteRange k b s) j = slotAt s j := by
  simp [slotAt]
@[simp] theorem chainAt_xwriteRange (k : Nat) (b : List Byte) (s : State) (j : Nat) : chainAt (xwriteRange k b s) j = chainAt s j := by
  simp [chainAt]

/-- A slot read from the table is a slot of the table. -/
theorem slotAt_mem {i : Nat} (h : i < s.slots.length) : slotAt s i ∈ s.slots := by
  simp [slotAt, h]

/-- A chain read from the table is a chain of the table. -/
theorem chainAt_mem {c : Nat} (h : c < s.chains.length) : chainAt s c ∈ s.chains := by
  simp [chainAt, h]

end Sys2Proof.Machine
end

