-- ==== Sys2Proof/Laws/Chain.lean ====
section
/-! SUPPORT. Laws/Chain.lean: what the chain primitives do to the bytes, the sizes and the chunks of a chain (R103 to
R110), first on lists of chunks, then on the state, with one inversion lemma for chain_write and one for chain_move. -/

namespace Sys2Proof.Machine

/-! ### Lists of chunks -/

@[simp] theorem chunksBytes_nil : chunksBytes [] = [] := rfl

@[simp] theorem chunksBytes_cons (k : Chunk) (ks : List Chunk) :
    chunksBytes (k :: ks) = unread k ++ chunksBytes ks := rfl

@[simp] theorem chunksBytes_append (a b : List Chunk) : chunksBytes (a ++ b) = chunksBytes a ++ chunksBytes b := by
  simp [chunksBytes]

@[simp] theorem chunksTotal_nil : chunksTotal [] = 0 := rfl

@[simp] theorem chunksTotal_cons (k : Chunk) (ks : List Chunk) :
    chunksTotal (k :: ks) = (fill k - k.seek) + chunksTotal ks := rfl

@[simp] theorem chunksTotal_append (a b : List Chunk) : chunksTotal (a ++ b) = chunksTotal a + chunksTotal b := by
  simp [chunksTotal]

/-- total_size is the number of the chain's bytes (R35). -/
@[simp] theorem chunksBytes_length (ks : List Chunk) : (chunksBytes ks).length = chunksTotal ks := by
  induction ks with
  | nil => rfl
  | cons k ks ih => simp [ih, unread, fill]

/-- A chain of good chunks is empty exactly when it holds no byte (R103). -/
theorem chunksTotal_eq_zero {ks : List Chunk} (h : ∀ k ∈ ks, ChunkOk k) : chunksTotal ks = 0 ↔ ks = [] := by
  cases ks with
  | nil => simp
  | cons k ks =>
    have := (h k List.mem_cons_self).1
    simp only [chunksTotal_cons, reduceCtorEq, iff_false]
    omega

theorem fillLast_append_singleton (ks : List Chunk) (k : Chunk) (b : List Byte) :
    fillLast (ks ++ [k]) b = ks ++ [{ k with data := k.data ++ b }] := by
  induction ks with
  | nil => rfl
  | cons x ks ih =>
    cases ks with
    | nil => rfl
    | cons y ks => simpa [fillLast] using ih

theorem room_append_singleton (ks : List Chunk) (k : Chunk) : room (ks ++ [k]) = chunkSize - fill k := by
  simp [room]

/-- The number of chunks R104 takes from the pool for n bytes. -/
def chunkCount (n : Nat) : Nat := (n + (chunkSize - 1)) / chunkSize

theorem newChunks_spec (fuel : Nat) (b : List Byte) (h : b.length ≤ fuel) :
    chunksBytes (newChunks fuel b) = b ∧ (∀ k ∈ newChunks fuel b, ChunkOk k) ∧
      (newChunks fuel b).length = chunkCount b.length := by
  induction fuel generalizing b with
  | zero =>
    have : b = [] := List.length_eq_zero_iff.mp (by omega)
    subst this
    simp [newChunks, chunkCount, chunkSize]
  | succ n ih =>
    unfold newChunks
    split
    · rename_i hb
      have : b = [] := by simpa using hb
      subst this
      simp [chunkCount, chunkSize]
    · rename_i hb
      have hne : b.length ≠ 0 := by
        intro h0; exact hb (by simp [List.length_eq_zero_iff.mp h0])
      obtain ⟨i1, i2, i3⟩ := ih (b.drop chunkSize) (by simp [chunkSize]; omega)
      refine ⟨?_, ?_, ?_⟩
      · simp [i1, unread]
      · intro k hk
        rcases List.mem_cons.mp hk with hk | hk
        · subst hk
          simp only [ChunkOk, fill, List.length_take, chunkSize]
          omega
        · exact i2 k hk
      · rw [List.length_cons, i3]
        simp only [List.length_drop, chunkCount, chunkSize]
        omega

/-- The m-th new chunk holds the next 32 bytes, or what is left (R104). -/
theorem newChunks_getElem? (fuel : Nat) (b : List Byte) (h : b.length ≤ fuel) (m : Nat) (hm : chunkSize * m < b.length) :
    (newChunks fuel b)[m]? = some { data := (b.drop (chunkSize * m)).take chunkSize, seek := 0 } := by
  induction fuel generalizing b m with
  | zero => omega
  | succ n ih =>
    have hb : ¬b.isEmpty = true := by
      intro h0
      rw [List.isEmpty_iff.mp h0] at hm
      simp at hm
    rw [newChunks, if_neg hb]
    cases m with
    | zero => simp
    | succ m =>
      have hm' : chunkSize * m + chunkSize < b.length := by rw [← Nat.mul_succ]; exact hm
      rw [List.getElem?_cons_succ, ih _ (by simp [chunkSize]; omega) m (by simp; omega), List.drop_drop, Nat.mul_succ,
        Nat.add_comm]

/-- The last chunk with room takes the first bytes; the rest fills new chunks: nothing is lost or reordered. -/
theorem chunksBytes_writeChunks {ks : List Chunk} (hk : ∀ k ∈ ks, ChunkOk k) (b : List Byte) :
    chunksBytes (writeChunks ks b) = chunksBytes ks ++ b := by
  have hn := newChunks_spec b.length (b.drop (min (room ks) b.length)) (by simp)
  rw [writeChunks, chunksBytes_append, hn.1]
  rcases List.eq_nil_or_concat ks with h | ⟨as, k, h⟩
  · subst h
    simp [fillLast, room]
  · simp only [List.concat_eq_append] at h
    subst h
    have := (hk k (by simp)).1
    rw [fillLast_append_singleton, chunksBytes_append, chunksBytes_append]
    simp only [chunksBytes_cons, chunksBytes_nil, unread, List.append_nil, List.append_assoc]
    rw [List.drop_append_of_le_length (by simp only [fill] at this; omega), List.append_assoc, List.take_append_drop]

/-- Every chunk after a write is good (R36). -/
theorem chunkOk_writeChunks {ks : List Chunk} (hk : ∀ k ∈ ks, ChunkOk k) (b : List Byte) :
    ∀ k ∈ writeChunks ks b, ChunkOk k := by
  have hn := newChunks_spec b.length (b.drop (min (room ks) b.length)) (by simp)
  intro k hk'
  rcases List.mem_append.mp hk' with h | h
  · rcases List.eq_nil_or_concat ks with e | ⟨as, l, e⟩
    · subst e; simp [fillLast] at h
    · simp only [List.concat_eq_append] at e
      subst e
      rw [fillLast_append_singleton] at h
      rcases List.mem_append.mp h with h | h
      · exact hk k (by simp [h])
      · have hl := hk l (by simp)
        simp only [List.mem_singleton] at h
        subst h
        rw [room_append_singleton]
        simp only [ChunkOk, fill, List.length_append, List.length_take] at hl ⊢
        omega
  · exact hn.2.1 k h

/-- A write takes `need` chunks from the pool (R104). -/
theorem length_writeChunks (ks : List Chunk) (b : List Byte) :
    (writeChunks ks b).length = ks.length + need ks b.length := by
  have hn := newChunks_spec b.length (b.drop (min (room ks) b.length)) (by simp)
  have hf : (fillLast ks (b.take (min (room ks) b.length))).length = ks.length := by
    rcases List.eq_nil_or_concat ks with e | ⟨as, l, e⟩
    · subst e; rfl
    · simp only [List.concat_eq_append] at e
      subst e
      simp [fillLast_append_singleton]
  rw [writeChunks, List.length_append, hf, hn.2.2]
  simp only [List.length_drop, chunkCount, need]
  congr 2
  omega

/-- The chunks before the last are as they were, and the last keeps its SEEK and takes the first bytes (R104). -/
theorem writeChunks_append_singleton (as : List Chunk) (k : Chunk) (b : List Byte) :
    writeChunks (as ++ [k]) b =
      as ++ { data := k.data ++ b.take (min (chunkSize - fill k) b.length), seek := k.seek } ::
        newChunks b.length (b.drop (min (chunkSize - fill k) b.length)) := by
  simp only [writeChunks, room_append_singleton, fillLast_append_singleton, List.append_assoc, List.singleton_append]

/-- The m-th chunk a write takes from the pool (R104). -/
theorem writeChunks_getElem?_new (ks : List Chunk) (b : List Byte) (m : Nat) (hm : m < need ks b.length) :
    (writeChunks ks b)[ks.length + m]? =
      some { data := (b.drop (room ks + chunkSize * m)).take chunkSize, seek := 0 } := by
  have hlt : room ks + chunkSize * m < b.length := by
    simp only [need, chunkSize] at hm ⊢
    omega
  have hmin : min (room ks) b.length = room ks := by omega
  have hnew := newChunks_getElem? b.length (b.drop (room ks)) (by simp) m (by simp; omega)
  have hf : (fillLast ks (b.take (room ks))).length = ks.length := by
    rcases List.eq_nil_or_concat ks with e | ⟨as, l, e⟩
    · subst e; rfl
    · simp only [List.concat_eq_append] at e
      subst e
      simp [fillLast_append_singleton]
  rw [writeChunks, hmin, List.getElem?_append_right (by omega), hf, Nat.add_sub_cancel_left, hnew, List.drop_drop]

theorem chunksTotal_writeChunks {ks : List Chunk} (hk : ∀ k ∈ ks, ChunkOk k) (b : List Byte) :
    chunksTotal (writeChunks ks b) = chunksTotal ks + b.length := by
  rw [← chunksBytes_length, chunksBytes_writeChunks hk, List.length_append, chunksBytes_length]

/-- A read gives the first bytes and leaves the rest (R105); the chunks left are good, and at most as many. -/
theorem readChunks_spec {ks : List Chunk} (hk : ∀ k ∈ ks, ChunkOk k) (n : Nat) :
    (readChunks ks n).1 = (chunksBytes ks).take n ∧ chunksBytes (readChunks ks n).2 = (chunksBytes ks).drop n ∧
      (∀ k ∈ (readChunks ks n).2, ChunkOk k) ∧ (readChunks ks n).2.length ≤ ks.length := by
  induction ks generalizing n with
  | nil => simp [readChunks]
  | cons k ks ih =>
    have h1 := hk k List.mem_cons_self
    have h2 : ∀ x ∈ ks, ChunkOk x := fun x hx => hk x (List.mem_cons_of_mem _ hx)
    have hlen : (unread k).length = fill k - k.seek := by simp [unread, fill]
    unfold readChunks
    split
    · rename_i h0
      subst h0
      refine ⟨by simp, by simp, hk, le_refl _⟩
    · dsimp only
      split
      · rename_i h0 he
        have hle : fill k - k.seek ≤ n := by have := h1.1; omega
        have hm : min n (fill k - k.seek) = fill k - k.seek := by omega
        obtain ⟨i1, i2, i3, i4⟩ := ih h2 (n - min n (fill k - k.seek))
        simp only [hm] at i1 i2 i3 i4 ⊢
        refine ⟨?_, ?_, i3, by simp only [List.length_cons]; omega⟩
        · rw [i1, chunksBytes_cons, List.take_append, hlen]
          congr 1
          rw [List.take_of_length_le (by simp [fill]), List.take_of_length_le (by omega)]
          rfl
        · rw [i2, chunksBytes_cons, List.drop_append, hlen,
            List.drop_eq_nil_of_le (as := unread k) (by omega), List.nil_append]
      · rename_i h0 he
        have hlt : n < fill k - k.seek := by have := h1.1; omega
        have hm : min n (fill k - k.seek) = n := by omega
        simp only [hm]
        refine ⟨?_, ?_, ?_, by simp⟩
        · rw [chunksBytes_cons, List.take_append_of_le_length (by omega)]
          rfl
        · rw [chunksBytes_cons, chunksBytes_cons, List.drop_append_of_le_length (by omega)]
          simp [unread, List.drop_drop]
        · intro x hx
          rcases List.mem_cons.mp hx with hx | hx
          · subst hx
            have := h1.2
            refine ⟨?_, this⟩
            simp only [fill] at hlt ⊢
            omega
          · exact h2 x hx

/-- The chunks a read leaves (R105, R109): the first `p`, read to their ends, are gone, and the next has its SEEK moved
by the `r` bytes read of it, which are not all it has. -/
theorem readChunks_left {ks : List Chunk} (hk : ∀ k ∈ ks, ChunkOk k) (n : Nat) :
    ∃ p r, p ≤ ks.length ∧ chunksTotal (ks.take p) + r = min n (chunksTotal ks) ∧
      (∀ k, ks[p]? = some k → k.seek + r < k.data.length) ∧
      (readChunks ks n).2 = (ks.drop p).modifyHead (fun k => { k with seek := k.seek + r }) := by
  induction ks generalizing n with
  | nil => exact ⟨0, 0, by simp [readChunks]⟩
  | cons k ks ih =>
    have h1 := (hk k List.mem_cons_self).1
    unfold readChunks
    split
    · rename_i h0
      subst h0
      exact ⟨0, 0, by simp, by simp, by simpa [fill] using h1, by simp⟩
    · dsimp only
      split
      · rename_i h0 he
        have hm : min n (fill k - k.seek) = fill k - k.seek := by omega
        obtain ⟨p, r, i1, i2, i3, i4⟩ := ih (fun x hx => hk x (List.mem_cons_of_mem _ hx)) (n - min n (fill k - k.seek))
        refine ⟨p + 1, r, by simpa using i1, ?_, by simpa using i3, by simpa using i4⟩
        simp only [List.take_succ_cons, chunksTotal_cons]
        omega
      · rename_i h0 he
        refine ⟨0, n, by simp, by simp only [List.take_zero, chunksTotal_nil, chunksTotal_cons]; omega, ?_, ?_⟩
        · intro x hx
          simp only [List.getElem?_cons_zero, Option.some.injEq] at hx
          subst hx
          simp only [fill] at *
          omega
        · have hm : min n (fill k - k.seek) = n := by omega
          rw [hm]
          rfl

/-! ### chain_clear and chain_read write only the chains -/

@[simp] theorem chainClear_params (c : Nat) (s : State) : (chainClear c s).params = s.params := rfl
@[simp] theorem chainClear_lastcmd (c : Nat) (s : State) : (chainClear c s).lastcmd = s.lastcmd := rfl
@[simp] theorem chainClear_arg0 (c : Nat) (s : State) : (chainClear c s).arg0 = s.arg0 := rfl
@[simp] theorem chainClear_arg1 (c : Nat) (s : State) : (chainClear c s).arg1 = s.arg1 := rfl
@[simp] theorem chainClear_res0 (c : Nat) (s : State) : (chainClear c s).res0 = s.res0 := rfl
@[simp] theorem chainClear_res1 (c : Nat) (s : State) : (chainClear c s).res1 = s.res1 := rfl
@[simp] theorem chainClear_err (c : Nat) (s : State) : (chainClear c s).err = s.err := rfl
@[simp] theorem chainClear_run (c : Nat) (s : State) : (chainClear c s).run = s.run := rfl
@[simp] theorem chainClear_rxerr (c : Nat) (s : State) : (chainClear c s).rxerr = s.rxerr := rfl
@[simp] theorem chainClear_ownaddr (c : Nat) (s : State) : (chainClear c s).ownaddr = s.ownaddr := rfl
@[simp] theorem chainClear_crcacc (c : Nat) (s : State) : (chainClear c s).crcacc = s.crcacc := rfl
@[simp] theorem chainClear_ev0 (c : Nat) (s : State) : (chainClear c s).ev0 = s.ev0 := rfl
@[simp] theorem chainClear_ev1 (c : Nat) (s : State) : (chainClear c s).ev1 = s.ev1 := rfl
@[simp] theorem chainClear_rxframes (c : Nat) (s : State) : (chainClear c s).rxframes = s.rxframes := rfl
@[simp] theorem chainClear_rxbytes (c : Nat) (s : State) : (chainClear c s).rxbytes = s.rxbytes := rfl
@[simp] theorem chainClear_txframes (c : Nat) (s : State) : (chainClear c s).txframes = s.txframes := rfl
@[simp] theorem chainClear_txbytes (c : Nat) (s : State) : (chainClear c s).txbytes = s.txbytes := rfl
@[simp] theorem chainClear_rxdrop (c : Nat) (s : State) : (chainClear c s).rxdrop = s.rxdrop := rfl
@[simp] theorem chainClear_evie (c : Nat) (s : State) : (chainClear c s).evie = s.evie := rfl
@[simp] theorem chainClear_errie (c : Nat) (s : State) : (chainClear c s).errie = s.errie := rfl
@[simp] theorem chainClear_xbuf (c : Nat) (s : State) : (chainClear c s).xbuf = s.xbuf := rfl
@[simp] theorem chainClear_slots (c : Nat) (s : State) : (chainClear c s).slots = s.slots := rfl
@[simp] theorem chainClear_events (c : Nat) (s : State) : (chainClear c s).events = s.events := rfl
@[simp] theorem chainClear_rxin (c : Nat) (s : State) : (chainClear c s).rxin = s.rxin := rfl
@[simp] theorem chainClear_txout (c : Nat) (s : State) : (chainClear c s).txout = s.txout := rfl
@[simp] theorem chainClear_agenda (c : Nat) (s : State) : (chainClear c s).agenda = s.agenda := rfl
@[simp] theorem chainClear_readData (c : Nat) (s : State) : (chainClear c s).readData = s.readData := rfl
@[simp] theorem chainClear_txAnswers (c : Nat) (s : State) : (chainClear c s).txAnswers = s.txAnswers := rfl
@[simp] theorem chainClear_emits (c : Nat) (s : State) : (chainClear c s).emits = s.emits := rfl
@[simp] theorem chainClear_resets (c : Nat) (s : State) : (chainClear c s).resets = s.resets := rfl

@[simp] theorem chainRead_params (c n : Nat) (s : State) : (chainRead c n s).params = s.params := rfl
@[simp] theorem chainRead_lastcmd (c n : Nat) (s : State) : (chainRead c n s).lastcmd = s.lastcmd := rfl
@[simp] theorem chainRead_arg0 (c n : Nat) (s : State) : (chainRead c n s).arg0 = s.arg0 := rfl
@[simp] theorem chainRead_arg1 (c n : Nat) (s : State) : (chainRead c n s).arg1 = s.arg1 := rfl
@[simp] theorem chainRead_res0 (c n : Nat) (s : State) : (chainRead c n s).res0 = s.res0 := rfl
@[simp] theorem chainRead_res1 (c n : Nat) (s : State) : (chainRead c n s).res1 = s.res1 := rfl
@[simp] theorem chainRead_err (c n : Nat) (s : State) : (chainRead c n s).err = s.err := rfl
@[simp] theorem chainRead_run (c n : Nat) (s : State) : (chainRead c n s).run = s.run := rfl
@[simp] theorem chainRead_rxerr (c n : Nat) (s : State) : (chainRead c n s).rxerr = s.rxerr := rfl
@[simp] theorem chainRead_ownaddr (c n : Nat) (s : State) : (chainRead c n s).ownaddr = s.ownaddr := rfl
@[simp] theorem chainRead_crcacc (c n : Nat) (s : State) : (chainRead c n s).crcacc = s.crcacc := rfl
@[simp] theorem chainRead_ev0 (c n : Nat) (s : State) : (chainRead c n s).ev0 = s.ev0 := rfl
@[simp] theorem chainRead_ev1 (c n : Nat) (s : State) : (chainRead c n s).ev1 = s.ev1 := rfl
@[simp] theorem chainRead_rxframes (c n : Nat) (s : State) : (chainRead c n s).rxframes = s.rxframes := rfl
@[simp] theorem chainRead_rxbytes (c n : Nat) (s : State) : (chainRead c n s).rxbytes = s.rxbytes := rfl
@[simp] theorem chainRead_txframes (c n : Nat) (s : State) : (chainRead c n s).txframes = s.txframes := rfl
@[simp] theorem chainRead_txbytes (c n : Nat) (s : State) : (chainRead c n s).txbytes = s.txbytes := rfl
@[simp] theorem chainRead_rxdrop (c n : Nat) (s : State) : (chainRead c n s).rxdrop = s.rxdrop := rfl
@[simp] theorem chainRead_evie (c n : Nat) (s : State) : (chainRead c n s).evie = s.evie := rfl
@[simp] theorem chainRead_errie (c n : Nat) (s : State) : (chainRead c n s).errie = s.errie := rfl
@[simp] theorem chainRead_xbuf (c n : Nat) (s : State) : (chainRead c n s).xbuf = s.xbuf := rfl
@[simp] theorem chainRead_slots (c n : Nat) (s : State) : (chainRead c n s).slots = s.slots := rfl
@[simp] theorem chainRead_events (c n : Nat) (s : State) : (chainRead c n s).events = s.events := rfl
@[simp] theorem chainRead_rxin (c n : Nat) (s : State) : (chainRead c n s).rxin = s.rxin := rfl
@[simp] theorem chainRead_txout (c n : Nat) (s : State) : (chainRead c n s).txout = s.txout := rfl
@[simp] theorem chainRead_agenda (c n : Nat) (s : State) : (chainRead c n s).agenda = s.agenda := rfl
@[simp] theorem chainRead_readData (c n : Nat) (s : State) : (chainRead c n s).readData = s.readData := rfl
@[simp] theorem chainRead_txAnswers (c n : Nat) (s : State) : (chainRead c n s).txAnswers = s.txAnswers := rfl
@[simp] theorem chainRead_emits (c n : Nat) (s : State) : (chainRead c n s).emits = s.emits := rfl
@[simp] theorem chainRead_resets (c n : Nat) (s : State) : (chainRead c n s).resets = s.resets := rfl

/-! ### Chains of the state -/

/-- The chunks in chains after one chain has changed (R38). -/
theorem sum_length_set (l : List Chain) (c : Nat) (x : Chain) (h : c < l.length) :
    ((l.set c x).map (fun y => y.chunks.length)).sum + l[c].chunks.length =
      (l.map (fun y => y.chunks.length)).sum + x.chunks.length := by
  induction l generalizing c with
  | nil => simp at h
  | cons a l ih =>
    cases c with
    | zero => simp; omega
    | succ c =>
      have := ih c (by simpa using h)
      simp only [List.set_cons_succ, List.map_cons, List.sum_cons, List.getElem_cons_succ]
      omega

theorem usedChunks_setChain {s : State} {c : Nat} (x : Chain) (h : c < s.chains.length) :
    usedChunks (setChain c x s) + (chainAt s c).chunks.length = usedChunks s + x.chunks.length := by
  have := sum_length_set s.chains c x h
  simpa [usedChunks, chainAt, h] using this

/-- The chunks of one chain are among the chunks in chains. -/
theorem chunks_le_usedChunks {s : State} {c : Nat} (h : c < s.chains.length) :
    (chainAt s c).chunks.length ≤ usedChunks s := by
  have := usedChunks_setChain (s := s) Chain.reset h
  simp [Chain.reset] at this
  omega

/-- What an accepted chain_write did (R104). -/
theorem chainWrite_ok {c : Nat} {b : List Byte} {s s' : State} (h : chainWrite c b s = .ok s') :
    totalSize s c + b.length ≤ (chainAt s c).maxcap.toNat ∧
      ((b = [] ∧ s' = s) ∨
        (need (chainAt s c).chunks b.length ≤ freeChunks s ∧
          s' = setChain c { chainAt s c with chunks := writeChunks (chainAt s c).chunks b } s)) := by
  unfold chainWrite at h
  simp only at h
  split at h
  · cases h
  · rename_i hf
    refine ⟨by omega, ?_⟩
    split at h
    · rename_i h0
      cases h
      exact .inl ⟨List.length_eq_zero_iff.mp h0, rfl⟩
    · split at h
      · cases h
      · rename_i hn
        cases h
        exact .inr ⟨by omega, rfl⟩

/-- chain_write answers FULL exactly when the bytes would pass MAXCAP (R104). -/
theorem chainWrite_full_iff {c : Nat} {b : List Byte} {s : State} :
    chainWrite c b s = .full ↔ (chainAt s c).maxcap.toNat < totalSize s c + b.length := by
  unfold chainWrite
  simp only
  split
  · simp_all
  · rename_i h
    split
    · simp [h]
    · split <;> simp [h]

/-- What an accepted chain_move did (R106). -/
theorem chainMove_ok {d c : Nat} {s s' : State} (h : chainMove d c s = .ok s') :
    ((chainAt s c).chunks = [] ∧ s' = s) ∨
      (totalSize s d + totalSize s c ≤ (chainAt s d).maxcap.toNat ∧
        s' = setChain c { chainAt s c with chunks := [] }
          (setChain d { chainAt s d with chunks := (chainAt s d).chunks ++ (chainAt s c).chunks } s)) := by
  unfold chainMove at h
  simp only at h
  split at h
  · rename_i he
    cases h
    exact .inl ⟨by simpa using he, rfl⟩
  · split at h
    · cases h
    · rename_i hn
      cases h
      exact .inr ⟨by omega, rfl⟩

/-- chain_move never answers NOMEM: no chunk is taken from the pool (R106). -/
theorem chainMove_ne_nomem (d c : Nat) (s : State) : chainMove d c s ≠ .nomem := by
  unfold chainMove
  simp only
  split
  · simp
  · split <;> simp

end Sys2Proof.Machine
end

