-- ==== Sys2Proof/Laws/Memory.lean ====
section
/-! SUPPORT. Laws/Memory.lean: XBUF as a memory: read after write, the frame of a write, and that every write keeps
the canonical form. -/

namespace Sys2Proof.Machine

theorem Memory.get_set_same (m : Memory) (a : Nat) (v : Byte) : Memory.get (Memory.set m a v) a = some v := by
  induction m with
  | nil => simp [Memory.set, Memory.get]
  | cons c m ih =>
    obtain ⟨k, u⟩ := c
    unfold Memory.set
    split
    · simp [Memory.get]
    · split
      · simp [Memory.get]
      · rename_i h; simp [Memory.get, h, ih]

theorem Memory.get_set_ne (m : Memory) {a b : Nat} (v : Byte) (h : b ≠ a) :
    Memory.get (Memory.set m a v) b = Memory.get m b := by
  induction m with
  | nil => simp [Memory.set, Memory.get, Ne.symm h]
  | cons c m ih =>
    obtain ⟨k, u⟩ := c
    unfold Memory.set
    split
    · simp [Memory.get, Ne.symm h]
    · split
      · rename_i h'; subst h'; simp [Memory.get, Ne.symm h]
      · simp [Memory.get, ih]

/-- Every entry of a written memory is the written one or an old one. -/
theorem Memory.mem_set {m : Memory} {a : Nat} {v : Byte} {x : Host.Cell} (h : x ∈ Memory.set m a v) :
    x = (a, v) ∨ x ∈ m := by
  induction m with
  | nil => simpa [Memory.set] using h
  | cons c m ih =>
    obtain ⟨k, u⟩ := c
    unfold Memory.set at h
    split at h
    · simpa using h
    · split at h
      · rcases List.mem_cons.mp h with h | h
        · exact .inl h
        · exact .inr (List.mem_cons_of_mem _ h)
      · rcases List.mem_cons.mp h with h | h
        · exact .inr (h ▸ List.mem_cons_self)
        · rcases ih h with h | h
          · exact .inl h
          · exact .inr (List.mem_cons_of_mem _ h)

theorem Memory.pairwise_set {m : Memory} (a : Nat) (v : Byte)
    (h : m.Pairwise (fun x y => x.1 < y.1)) : (Memory.set m a v).Pairwise (fun x y => x.1 < y.1) := by
  induction m with
  | nil => simp [Memory.set]
  | cons c m ih =>
    obtain ⟨k, u⟩ := c
    rw [List.pairwise_cons] at h
    unfold Memory.set
    split
    · rename_i hak
      refine List.pairwise_cons.mpr ⟨?_, List.pairwise_cons.mpr h⟩
      intro x hx
      rcases List.mem_cons.mp hx with hx | hx
      · subst hx; exact hak
      · exact Nat.lt_trans hak (h.1 x hx)
    · split
      · rename_i hka
        subst hka
        exact List.pairwise_cons.mpr h
      · rename_i h1 h2
        refine List.pairwise_cons.mpr ⟨?_, ih h.2⟩
        intro x hx
        rcases Memory.mem_set hx with hx | hx
        · subst hx
          show k < a
          omega
        · exact h.1 x hx

/-- A write below 256 keeps the canonical form. -/
theorem Memory.wf_set {m : Memory} {a : Nat} (v : Byte) (ha : a < xbufSize) (h : Memory.wf m = true) :
    Memory.wf (Memory.set m a v) = true := by
  simp only [Memory.wf, Bool.and_eq_true, decide_eq_true_eq, List.all_eq_true] at h ⊢
  refine ⟨Memory.pairwise_set a v h.1, fun x hx => ?_⟩
  rcases Memory.mem_set hx with hx | hx
  · subst hx; exact ha
  · exact h.2 x hx

/-- Every XBUF write keeps the canonical form. -/
theorem wf_xwrite {s : State} (k : Nat) (b : Byte) (h : Memory.wf s.xbuf = true) :
    Memory.wf (xwrite k b s).xbuf = true := by
  unfold xwrite
  split
  · rename_i hk; exact Memory.wf_set b hk h
  · exact h

theorem wf_xwriteRange {s : State} (k : Nat) (b : List Byte) (h : Memory.wf s.xbuf = true) :
    Memory.wf (xwriteRange k b s).xbuf = true := by
  induction b generalizing k s with
  | nil => exact h
  | cons x b ih => exact ih (k + 1) (wf_xwrite k x h)

/-! ### Reading a byte after a write -/

theorem xread_xwrite_same {s : State} {k : Nat} (b : Byte) (hk : k < xbufSize) :
    xread (xwrite k b s) k = b := by
  unfold xread xwrite
  rw [if_pos hk]
  simp [Memory.get_set_same]

theorem xread_xwrite_ne {s : State} {k j : Nat} (b : Byte) (h : j ≠ k) :
    xread (xwrite k b s) j = xread s j := by
  unfold xread xwrite
  split
  · simp [Memory.get_set_ne _ b h]
  · rfl

/-- A byte outside the written range reads as before. -/
theorem xread_xwriteRange_out {s : State} (off : Nat) (b : List Byte) {j : Nat}
    (h : j < off ∨ off + b.length ≤ j) : xread (xwriteRange off b s) j = xread s j := by
  induction b generalizing off s with
  | nil => rfl
  | cons x b ih =>
    have h1 : j < off + 1 ∨ off + 1 + b.length ≤ j := by
      simp only [List.length_cons] at h; omega
    rw [xwriteRange, ih (off + 1) h1]
    apply xread_xwrite_ne
    simp only [List.length_cons] at h
    omega

/-- A byte of the written range reads as written. -/
theorem xread_xwriteRange_in {s : State} (off : Nat) (b : List Byte) {k : Nat} (hk : k < b.length)
    (h : off + b.length ≤ xbufSize) : xread (xwriteRange off b s) (off + k) = b[k] := by
  induction b generalizing off s k with
  | nil => simp at hk
  | cons x b ih =>
    simp only [List.length_cons] at hk h
    rw [xwriteRange]
    cases k with
    | zero =>
      rw [xread_xwriteRange_out (off + 1) b (by omega)]
      simpa using xread_xwrite_same x (by omega)
    | succ k =>
      have := ih (s := xwrite off x s) (off + 1) (k := k) (by omega) (by omega)
      rw [show off + (k + 1) = off + 1 + k by omega, this]
      rfl

/-- Reading a range just written gives what was written. -/
theorem xreadRange_xwriteRange {s : State} (off : Nat) (b : List Byte) (h : off + b.length ≤ xbufSize) :
    xreadRange (xwriteRange off b s) off b.length = b := by
  apply List.ext_getElem
  · simp [xreadRange]
  · intro k h1 h2
    simp only [xreadRange, List.getElem_map, List.getElem_range]
    exact xread_xwriteRange_in off b h2 h

@[simp] theorem xreadRange_length (s : State) (off n : Nat) : (xreadRange s off n).length = n := by
  simp [xreadRange]

/-- Consecutive ranges. -/
theorem xreadRange_append (s : State) (off m n : Nat) :
    xreadRange s off (m + n) = xreadRange s off m ++ xreadRange s (off + m) n := by
  simp [xreadRange, List.range_add, List.map_map, Function.comp_def, Nat.add_assoc]

/-- What XRead gives depends on XBUF and the reset epoch only. -/
theorem xread_congr {s t : State} (h : t.xbuf = s.xbuf) (hr : t.resets = s.resets) (k : Nat) :
    xread t k = xread s k := by
  simp [xread, h, hr]

theorem xreadRange_congr {s t : State} (h : t.xbuf = s.xbuf) (hr : t.resets = s.resets) (off n : Nat) :
    xreadRange t off n = xreadRange s off n := by
  simp [xreadRange, xread, h, hr]

end Sys2Proof.Machine
end

