-- ==== Sys2Proof/Laws/Inv.lean ====
section
/-! SUPPORT. Laws/Inv.lean: the invariant through the shared operations: what each update of a chain, a slot or the
event FIFO must satisfy for the invariant to hold after it. -/

namespace Sys2Proof.Machine

variable {s t : State}

/-- The invariant depends on the tables, the FIFO, XBUF, RUN with OWNADDR, and the two frame sequences only. -/
theorem Invariant.congr (h : Invariant s) (hp : t.params = s.params) (hs : t.slots = s.slots) (hc : t.chains = s.chains)
    (he : t.events = s.events) (hx : t.xbuf = s.xbuf) (hr : t.run = s.run) (ho : t.ownaddr = s.ownaddr)
    (hi : t.rxin = s.rxin) (hq : t.txout = s.txout) (h0 : t.ev0 = s.ev0) (h1 : t.ev1 = s.ev1) : Invariant t :=
  { params := by rw [hp]; exact h.params
    shaped := by rw [Shaped, nchain, hs, hc, hp]; exact h.shaped
    ports := by simp only [PortsUnique, slotAt, hs, hp]; exact h.ports
    peers := by simp only [PeersUnique, slotAt, hs, hp]; exact h.peers
    slots := by rw [hs]; exact h.slots
    chains := by rw [hc]; exact h.chains
    pool := by rw [usedChunks, hc, hp]; exact h.pool
    fifo := by rw [evCount, he, hp]; exact h.fifo
    evSlots := by rw [he, hp]; exact h.evSlots
    evRegs := by rw [EventRegsOk, h0, h1]; exact h.evRegs
    xbuf := by rw [hx]; exact h.xbuf
    own := by rw [hr, ho]; exact h.own
    rxin := by rw [hi]; exact h.rxin
    txout := by rw [hq]; exact h.txout }

/-- A chain of the table is good. -/
theorem Invariant.chainOk (h : Invariant s) {c : Nat} (hc : c < nchain s) : ChainOk (chainAt s c) :=
  h.chains _ (chainAt_mem (by rw [h.shaped.2]; exact hc))

/-- A slot of the table is good. -/
theorem Invariant.slotOk (h : Invariant s) {i : Nat} (hi : i < s.params.nslot) : SlotOk (slotAt s i) :=
  h.slots _ (slotAt_mem (by rw [h.shaped.1]; exact hi))

theorem Invariant.setChain (h : Invariant s) {c : Nat} {x : Chain} (hc : c < nchain s) (hx : ChainOk x)
    (hp : usedChunks s + x.chunks.length ≤ s.params.nchunk + (chainAt s c).chunks.length) :
    Invariant (setChain c x s) := by
  have hlen : c < s.chains.length := by rw [h.shaped.2]; exact hc
  have hu := usedChunks_setChain x hlen
  exact
    { params := h.params
      shaped := ⟨h.shaped.1, by simpa [nchain] using h.shaped.2⟩
      ports := h.ports
      peers := h.peers
      slots := h.slots
      chains := fun y hy => by
        rcases List.mem_or_eq_of_mem_set hy with hy | hy
        · exact h.chains y hy
        · exact hy ▸ hx
      pool := by simp only [setChain_params]; omega
      fifo := h.fifo
      evSlots := h.evSlots
      evRegs := h.evRegs
      xbuf := h.xbuf
      own := h.own
      rxin := h.rxin
      txout := h.txout }

/-- Emptying a chain keeps the invariant (R107, R113). -/
theorem Invariant.emptyChain (h : Invariant s) {c : Nat} (m : Half) (hc : c < nchain s) :
    Invariant (Machine.setChain c { maxcap := m, chunks := [] } s) := by
  refine h.setChain hc ⟨by simp, by simp⟩ ?_
  have := h.pool
  simp only [List.length_nil]
  omega

theorem Invariant.chainClear (h : Invariant s) {c : Nat} (hc : c < nchain s) : Invariant (chainClear c s) :=
  h.emptyChain _ hc

/-- chain_write keeps the invariant (R37, R38, R104). -/
theorem Invariant.chainWrite (h : Invariant s) {c : Nat} {b : List Byte} (hc : c < nchain s)
    (hw : chainWrite c b s = .ok t) : Invariant t := by
  obtain ⟨hcap, ⟨-, rfl⟩ | ⟨hn, rfl⟩⟩ := chainWrite_ok hw
  · exact h
  · have ho := h.chainOk hc
    refine h.setChain hc ⟨chunkOk_writeChunks ho.1 b, ?_⟩ ?_
    · simp only [chunksTotal_writeChunks ho.1]
      exact hcap
    · have := h.pool
      simp only [length_writeChunks, freeChunks] at hn ⊢
      omega

/-- chain_read keeps the invariant (R105). -/
theorem Invariant.chainRead (h : Invariant s) {c : Nat} (n : Nat) (hc : c < nchain s) : Invariant (chainRead c n s) := by
  have ho := h.chainOk hc
  obtain ⟨-, h2, h3, h4⟩ := readChunks_spec ho.1 n
  refine h.setChain hc ⟨h3, ?_⟩ ?_
  · have h5 := ho.2
    rw [← chunksBytes_length, h2, List.length_drop, chunksBytes_length]
    simp only
    omega
  · have := h.pool
    simp only
    omega

/-- chain_move between two chains keeps the invariant (R106). -/
theorem Invariant.chainMove (h : Invariant s) {d c : Nat} (hd : d < nchain s) (hc : c < nchain s) (hne : d ≠ c)
    (hm : chainMove d c s = .ok t) : Invariant t := by
  obtain ⟨-, rfl⟩ | ⟨hcap, rfl⟩ := chainMove_ok hm
  · exact h
  · have od := h.chainOk hd
    have oc := h.chainOk hc
    have hdl : d < s.chains.length := by rw [h.shaped.2]; exact hd
    have hcl : c < s.chains.length := by rw [h.shaped.2]; exact hc
    have key : Machine.setChain c { chainAt s c with chunks := [] }
        (Machine.setChain d { chainAt s d with chunks := (chainAt s d).chunks ++ (chainAt s c).chunks } s) =
        Machine.setChain d { chainAt s d with chunks := (chainAt s d).chunks ++ (chainAt s c).chunks }
          (Machine.setChain c { chainAt s c with chunks := [] } s) := by
      simp only [Machine.setChain, State.mk.injEq, true_and, and_true]
      exact List.set_comm _ _ hne
    rw [key]
    have h1 : Invariant (Machine.setChain c { chainAt s c with chunks := [] } s) := h.emptyChain _ hc
    have hu := usedChunks_setChain (s := s) { chainAt s c with chunks := [] } hcl
    have hat : chainAt (Machine.setChain c { chainAt s c with chunks := [] } s) d = chainAt s d :=
      chainAt_setChain_ne _ (Ne.symm hne)
    refine h1.setChain hd ⟨?_, ?_⟩ ?_
    · intro k hk
      rcases List.mem_append.mp hk with hk | hk
      · exact od.1 k hk
      · exact oc.1 k hk
    · simpa [totalSize] using hcap
    · rw [hat]
      have := h.pool
      simp only [List.length_append, List.length_nil, setChain_params] at hu ⊢
      omega

theorem Invariant.setSlot (h : Invariant s) {i : Nat} {x : Slot} (hi : i < s.params.nslot) (hx : SlotOk x)
    (hports : isListening x.role = true → ∀ j < s.params.nslot, j ≠ i →
      isListening (slotAt s j).role = true → (slotAt s j).port ≠ x.port)
    (hpeers : isPeered x.role = true → ∀ j < s.params.nslot, j ≠ i →
      isPeered (slotAt s j).role = true → (slotAt s j).port = x.port → (slotAt s j).remote ≠ x.remote) :
    Invariant (setSlot i x s) := by
  have hlen : i < s.slots.length := by rw [h.shaped.1]; exact hi
  have same : slotAt (Machine.setSlot i x s) i = x := slotAt_setSlot_same x hlen
  have other : ∀ j, j ≠ i → slotAt (Machine.setSlot i x s) j = slotAt s j :=
    fun j hj => slotAt_setSlot_ne x (Ne.symm hj)
  exact
    { params := h.params
      shaped := ⟨by simpa using h.shaped.1, h.shaped.2⟩
      ports := fun a ha b hb la lb hab => by
        by_cases ea : a = i <;> by_cases eb : b = i
        · rw [ea, eb]
        · rw [ea, same] at la hab
          rw [other b eb] at lb hab
          exact absurd hab.symm (hports la b hb eb lb)
        · rw [eb, same] at lb hab
          rw [other a ea] at la hab
          exact absurd hab (hports lb a ha ea la)
        · rw [other a ea] at la hab
          rw [other b eb] at lb hab
          exact h.ports a ha b hb la lb hab
      peers := fun a ha b hb la lb hab hr => by
        by_cases ea : a = i <;> by_cases eb : b = i
        · rw [ea, eb]
        · rw [ea, same] at la hab hr
          rw [other b eb] at lb hab hr
          exact absurd hr.symm (hpeers la b hb eb lb hab.symm)
        · rw [eb, same] at lb hab hr
          rw [other a ea] at la hab hr
          exact absurd hr (hpeers lb a ha ea la hab)
        · rw [other a ea] at la hab hr
          rw [other b eb] at lb hab hr
          exact h.peers a ha b hb la lb hab hr
      slots := fun y hy => by
        rcases List.mem_or_eq_of_mem_set hy with hy | hy
        · exact h.slots y hy
        · exact hy ▸ hx
      chains := h.chains
      pool := h.pool
      fifo := h.fifo
      evSlots := h.evSlots
      evRegs := h.evRegs
      xbuf := h.xbuf
      own := h.own
      rxin := h.rxin
      txout := h.txout }

/-- A slot whose registration (role, port, remote) does not change keeps the table's uniqueness. -/
theorem Invariant.setSlot_sameRegistration (h : Invariant s) {i : Nat} {x : Slot} (hi : i < s.params.nslot) (hx : SlotOk x)
    (hr : x.role = (slotAt s i).role) (hp : x.port = (slotAt s i).port)
    (hm : x.remote = (slotAt s i).remote) : Invariant (Machine.setSlot i x s) := by
  refine h.setSlot hi hx (fun l j hj hne lj he => ?_) (fun l j hj hne lj he hrm => ?_)
  · exact hne (h.ports j hj i hi lj (hr ▸ l) (he.trans hp))
  · exact hne (h.peers j hj i hi lj (hr ▸ l) (he.trans hp) (hrm.trans hm))

/-- A role that neither listens nor is peered excludes nothing. -/
theorem Invariant.setSlot_unregistered (h : Invariant s) {i : Nat} {x : Slot} (hi : i < s.params.nslot) (hx : SlotOk x)
    (hl : isListening x.role = false) (hp : isPeered x.role = false) : Invariant (Machine.setSlot i x s) :=
  h.setSlot hi hx (fun l => by simp [hl] at l) (fun l => by simp [hp] at l)

/-- Posting one event of a slot of the table, with room in the FIFO (R39, R134). -/
theorem Invariant.post (h : Invariant s) {e : Event} (hroom : evCount s < s.params.evqDepth)
    (he : e.slot.toNat < s.params.nslot) : Invariant (post e s) :=
  { params := h.params
    shaped := h.shaped
    ports := h.ports
    peers := h.peers
    slots := h.slots
    chains := h.chains
    pool := h.pool
    fifo := by simpa [evCount] using hroom
    evSlots := fun x hx => by
      rcases List.mem_append.mp hx with hx | hx
      · exact h.evSlots x hx
      · simp only [List.mem_singleton] at hx
        exact hx ▸ he
    evRegs := h.evRegs
    xbuf := h.xbuf
    own := h.own
    rxin := h.rxin
    txout := h.txout }

/-- The slot number of an event the dispatcher posts: NSLOT is at most 8, so it fits 4 bits. -/
theorem Invariant.slotNumber (h : Invariant s) {i : Nat} (hi : i < s.params.nslot) :
    (BitVec.ofNat 4 i).toNat < s.params.nslot := by
  have := h.params.1.2
  rw [BitVec.toNat_ofNat]
  omega

theorem asmChain_lt {i : Nat} (hi : i < s.params.nslot) : asmChain i < nchain s := by
  simp only [asmChain, nchain]; omega

theorem readyChain_lt {i : Nat} (hi : i < s.params.nslot) : readyChain i < nchain s := by
  simp only [readyChain, nchain]; omega

theorem readyChain_ne_asmChain (i j : Nat) : readyChain i ≠ asmChain j := by
  simp only [readyChain, asmChain]; omega

end Sys2Proof.Machine
end

