-- ==== Sys2Proof/Laws/Commands.lean ====
section
/-! SUPPORT. Laws/Commands.lean: the invariant through the operations that end a command, write a result, write XBUF or
send a frame, the index checks, and the event words. -/

namespace Sys2Proof.Machine

variable {s t : State}

/-! ### The index checks (R112, R124) -/

theorem badChain_iff (s : State) (c : Nat) : badChain s c = true ↔ 2 * s.params.nslot ≤ c := by
  rw [badChain, decide_eq_true_eq, nchain]

theorem badChain_false {c : Nat} (h : badChain s c = false) : c < nchain s := by simpa [badChain] using h

theorem badSlot_iff (s : State) (i : Nat) : badSlot s i = true ↔ s.params.nslot ≤ i := by simp [badSlot]

theorem badSlot_false {i : Nat} (h : badSlot s i = false) : i < s.params.nslot := by simpa [badSlot] using h

theorem badRange_iff (off n : Nat) : badRange off n = true ↔ 256 < off + n := by
  rw [badRange, decide_eq_true_eq, xbufSize]

theorem locked_iff (s : State) (c : Nat) :
    locked s c = true ↔ c % 2 = 0 ∧ (slotAt s (c / 2)).asmActive = true := by simp [locked]

/-! ### Updates that touch nothing the invariant speaks of -/

theorem Invariant.fail (h : Invariant s) (e : ErrCode) : Invariant (fail e s) :=
  h.congr rfl rfl rfl rfl rfl rfl rfl rfl rfl rfl rfl

theorem Invariant.done (h : Invariant s) : Invariant (done s) := h.congr rfl rfl rfl rfl rfl rfl rfl rfl rfl rfl rfl

theorem Invariant.setRes0 (h : Invariant s) (v : Word) : Invariant (setRes0 v s) :=
  h.congr rfl rfl rfl rfl rfl rfl rfl rfl rfl rfl rfl

theorem Invariant.setRes1 (h : Invariant s) (v : Word) : Invariant (setRes1 v s) :=
  h.congr rfl rfl rfl rfl rfl rfl rfl rfl rfl rfl rfl

theorem Invariant.setRes0Nat (h : Invariant s) (n : Nat) : Invariant (setRes0Nat n s) := h.setRes0 _

theorem Invariant.setRes1Nat (h : Invariant s) (n : Nat) : Invariant (setRes1Nat n s) := h.setRes1 _

theorem Invariant.drop (h : Invariant s) : Invariant (drop s) := h.congr rfl rfl rfl rfl rfl rfl rfl rfl rfl rfl rfl

theorem Invariant.take (h : Invariant s) (f : Frame) : Invariant (take f s) := h.congr rfl rfl rfl rfl rfl rfl rfl rfl rfl rfl rfl

theorem Invariant.answerUsed (h : Invariant s) : Invariant (answerUsed s) := h.congr rfl rfl rfl rfl rfl rfl rfl rfl rfl rfl rfl

/-! ### XBUF and TXOUT -/

theorem Invariant.xwriteRange (h : Invariant s) (off : Nat) (b : List Byte) : Invariant (xwriteRange off b s) :=
  { params := by simpa using h.params
    shaped := by simpa [Shaped, nchain] using h.shaped
    ports := by simpa [PortsUnique] using h.ports
    peers := by simpa [PeersUnique] using h.peers
    slots := by simpa using h.slots
    chains := by simpa using h.chains
    pool := by simpa [usedChunks] using h.pool
    fifo := by simpa [evCount] using h.fifo
    evSlots := by simpa using h.evSlots
    evRegs := by simpa [EventRegsOk] using h.evRegs
    xbuf := wf_xwriteRange off b h.xbuf
    own := by simpa using h.own
    rxin := by simpa using h.rxin
    txout := by simpa using h.txout }

/-- 1 + LEN fits the DLC field (R94). -/
theorem dlc_toNat {len : BitVec 4} (hl : len.toNat ≤ 7) : (1 + len).toNat = 1 + len.toNat := by
  rw [BitVec.toNat_add]
  simp
  omega

/-- The frame TX_SEND builds is one the block may send (R40, R78, R79). -/
theorem txFrame_ok {ty : FrameType} {port : Port} {seq : Seq} {len : BitVec 4} (hl : len.toNat ≤ 7) (s : State) :
    TxFrameOk (txFrame ty port seq len s) := by
  have hd := dlc_toNat hl
  refine ⟨rfl, rfl, ?_, ?_, ?_, ?_⟩
  · simp only [txFrame, frameLen, hd]; omega
  · simp only [txFrame, frameLen, hd]; omega
  · simp only [txFrame, frameLen, hd, List.length_cons, xreadRange_length]; omega
  · simp [txFrame, idRsv, packId, addrOf]

theorem Invariant.sent (h : Invariant s) {f : Frame} (hf : TxFrameOk f) : Invariant (sent f s) :=
  { params := h.params
    shaped := h.shaped
    ports := h.ports
    peers := h.peers
    slots := h.slots
    chains := h.chains
    pool := h.pool
    fifo := h.fifo
    evSlots := h.evSlots
    evRegs := h.evRegs
    xbuf := h.xbuf
    own := h.own
    rxin := h.rxin
    txout := fun x hx => by
      rcases List.mem_append.mp hx with hx | hx
      · exact h.txout x hx
      · simp at hx; exact hx ▸ hf }

/-- A frame as RXIN keeps it is a record of R40. -/
theorem wf_record (f : Frame) : (Frame.record f).wf = true := by simp [Frame.record, Frame.wf]

/-! ### The event words -/

/-- The bits of EV0 that read 0 (R22). -/
theorem ev0Word_reserved (e : Event) : ev0Word e &&& 0xC000E000 = 0 := by
  apply BitVec.eq_of_getLsbD_eq
  intro i hi
  simp only [ev0Word, BitVec.getLsbD_and, BitVec.getLsbD_or, BitVec.getLsbD_shiftLeft, BitVec.getLsbD_setWidth]
  interval_cases i <;> simp

/-- The bits of EV1 that read 0 (R22). -/
theorem ev1Word_reserved (e : Event) : ev1Word e &&& 0xFF000000 = 0 := by
  apply BitVec.eq_of_getLsbD_eq
  intro i hi
  simp only [ev1Word, BitVec.getLsbD_and, BitVec.getLsbD_or, BitVec.getLsbD_shiftLeft, BitVec.getLsbD_setWidth]
  interval_cases i <;> simp

end Sys2Proof.Machine
end

