-- ==== Sys2Proof/Laws/Decode.lean ====
section
/-! SUPPORT. Laws/Decode.lean: the words of the five formats as numbers and under a mask (R61 to R65), and the codes'
inverses (R32, R68, R74). -/

namespace Sys2Proof

/-! ### Appended fields and extracted fields as numbers -/

theorem toNat_append_add {m n : Nat} (x : BitVec m) (y : BitVec n) :
    (x ++ y).toNat = x.toNat * 2 ^ n + y.toNat := by
  rw [BitVec.toNat_append, ← Nat.shiftLeft_add_eq_or_of_lt y.isLt, Nat.shiftLeft_eq]

theorem toNat_bitsOf (w : Word) (lo n : Nat) : (bitsOf w lo n).toNat = w.toNat / 2 ^ lo % 2 ^ n := by
  simp [bitsOf, BitVec.extractLsb'_toNat, Nat.shiftRight_eq_div_pow]

/-- A field of a masked word is the masked field. -/
theorem bitsOf_and (w v : Word) (lo n : Nat) : bitsOf (w &&& v) lo n = bitsOf w lo n &&& bitsOf v lo n := by
  simp [bitsOf, BitVec.extractLsb'_and]

theorem toNat_formatF0 (m : Mnemonic) : (formatF0 m).toNat = (opcode m).toNat * 2 ^ 24 := by
  rw [formatF0, toNat_append_add, BitVec.toNat_ofNat, Nat.zero_mod, Nat.add_zero]

theorem toNat_formatFH (m : Mnemonic) (ty : FrameType) (port : Port) (seq : Seq) (len : BitVec 4) :
    (formatFH m ty port seq len).toNat =
      (opcode m).toNat * 2 ^ 24 + (frameTypeCode ty).toNat * 2 ^ 21 + port.toNat * 2 ^ 18 + seq.toNat * 2 ^ 16 +
        len.toNat := by
  simp only [formatFH, toNat_append_add, BitVec.toNat_ofNat]
  omega

theorem toNat_formatFI (m : Mnemonic) (imm : Half) :
    (formatFI m imm).toNat = (opcode m).toNat * 2 ^ 24 + imm.toNat := by
  simp only [formatFI, toNat_append_add, BitVec.toNat_ofNat]
  omega

theorem toNat_formatFB (m : Mnemonic) (ch ch2 : BitVec 4) (imm : Half) :
    (formatFB m ch ch2 imm).toNat =
      (opcode m).toNat * 2 ^ 24 + ch.toNat * 2 ^ 20 + ch2.toNat * 2 ^ 16 + imm.toNat := by
  simp only [formatFB, toNat_append_add]
  omega

theorem toNat_formatFS (m : Mnemonic) (slot : BitVec 4) (role : BitVec 3) (proto : Proto) (port : Port) :
    (formatFS m slot role proto port).toNat =
      (opcode m).toNat * 2 ^ 24 + slot.toNat * 2 ^ 20 + role.toNat * 2 ^ 16 + (protoCode proto).toNat * 2 ^ 8 +
        port.toNat := by
  simp only [formatFS, toNat_append_add, BitVec.toNat_ofNat]
  omega

/-! ### Formats under a mask given field by field -/

theorem formatF0_and (m : Mnemonic) (a : BitVec 8) (b : BitVec 24) :
    formatF0 m &&& (a ++ b) = (opcode m &&& a) ++ (0#24 &&& b) := BitVec.and_append

theorem formatFH_and (m : Mnemonic) (ty : FrameType) (port : Port) (seq : Seq) (len : BitVec 4) (a : BitVec 8)
    (b c : BitVec 3) (d : BitVec 2) (e : BitVec 12) (f : BitVec 4) :
    formatFH m ty port seq len &&& (a ++ b ++ c ++ d ++ e ++ f) =
      (opcode m &&& a) ++ (frameTypeCode ty &&& b) ++ (port &&& c) ++ (seq &&& d) ++ (0#12 &&& e) ++ (len &&& f) :=
  BitVec.and_append.trans (congrArg (· ++ _) (BitVec.and_append.trans (congrArg (· ++ _) (BitVec.and_append.trans
    (congrArg (· ++ _) (BitVec.and_append.trans (congrArg (· ++ _) BitVec.and_append)))))))

theorem formatFI_and (m : Mnemonic) (imm : Half) (a b : BitVec 8) (c : Half) :
    formatFI m imm &&& (a ++ b ++ c) = (opcode m &&& a) ++ (0#8 &&& b) ++ (imm &&& c) :=
  BitVec.and_append.trans (congrArg (· ++ _) BitVec.and_append)

theorem formatFB_and (m : Mnemonic) (ch ch2 : BitVec 4) (imm : Half) (a : BitVec 8) (b c : BitVec 4) (d : Half) :
    formatFB m ch ch2 imm &&& (a ++ b ++ c ++ d) =
      (opcode m &&& a) ++ (ch &&& b) ++ (ch2 &&& c) ++ (imm &&& d) :=
  BitVec.and_append.trans (congrArg (· ++ _) (BitVec.and_append.trans (congrArg (· ++ _) BitVec.and_append)))

theorem formatFS_and (m : Mnemonic) (slot : BitVec 4) (role : BitVec 3) (proto : Proto) (port : Port) (a : BitVec 8)
    (b : BitVec 4) (c : BitVec 1) (d : BitVec 3) (e : BitVec 7) (f : BitVec 1) (g : BitVec 5) (h : BitVec 3) :
    formatFS m slot role proto port &&& (a ++ b ++ c ++ d ++ e ++ f ++ g ++ h) =
      (opcode m &&& a) ++ (slot &&& b) ++ (0#1 &&& c) ++ (role &&& d) ++ (0#7 &&& e) ++ (protoCode proto &&& f) ++
        (0#5 &&& g) ++ (port &&& h) :=
  BitVec.and_append.trans (congrArg (· ++ _) (BitVec.and_append.trans (congrArg (· ++ _) (BitVec.and_append.trans
    (congrArg (· ++ _) (BitVec.and_append.trans (congrArg (· ++ _) (BitVec.and_append.trans (congrArg (· ++ _)
      (BitVec.and_append.trans (congrArg (· ++ _) BitVec.and_append)))))))))))

/-! ### Codes -/

@[simp] theorem frameTypeOf_frameTypeCode (ty : FrameType) : frameTypeOf (frameTypeCode ty) = ty := by
  cases ty <;> decide

@[simp] theorem frameTypeCode_frameTypeOf (c : BitVec 3) : frameTypeCode (frameTypeOf c) = c := by
  revert c; decide

@[simp] theorem protoOf_protoCode (p : Proto) : protoOf (protoCode p) = p := by cases p <;> decide

@[simp] theorem protoCode_protoOf (c : BitVec 1) : protoCode (protoOf c) = c := by revert c; decide

/-- The opcode column of R68 names each row once. -/
@[simp] theorem mnemonicAt_opcode (m : Mnemonic) : mnemonicAt (opcode m) = some m := by cases m <;> decide

theorem opcode_of_mnemonicAt : ∀ o : BitVec 8, ∀ m ∈ mnemonicAt o, opcode m = o := by decide +revert

/-- The opcode of an encoded command is its row's (R60). -/
theorem opcode_encode (i : Instr) : bitsOf (encode i) 24 8 = opcode i.mnemonic := by
  apply BitVec.eq_of_toNat_eq
  rw [toNat_bitsOf]
  cases i <;>
    simp only [encode, toNat_formatF0, toNat_formatFH, toNat_formatFI, toNat_formatFB, toNat_formatFS,
      Instr.mnemonic, protoCode, BitVec.ofNat_eq_ofNat, BitVec.toNat_ofNat] <;>
    omega

end Sys2Proof
end

