-- ==== Sys2Proof/Laws/Bus.lean ====
section
/-! SUPPORT. Laws/Bus.lean: when an access is the block's (R47, R48), and the register map's two directions (R18). -/

namespace Sys2Proof.Machine

theorem wordAccess_iff (p : Params) (width addr : Nat) :
    wordAccess p width addr = true ↔
      width = 4 ∧ p.base ≤ addr ∧ addr % 4 = 0 ∧ addr < p.base + 0x200 := by
  simp only [wordAccess, Bool.and_eq_true, decide_eq_true_eq, and_assoc]
  rfl

theorem reaches_iff (p : Params) (width addr : Nat) :
    reaches p width addr = true ↔ p.base < addr + width ∧ addr < p.base + 0x200 := by
  simp only [reaches, Bool.and_eq_true, decide_eq_true_eq]
  rfl

/-- Each register is at its offset (R18). -/
@[simp] theorem regAt_regOffset (r : Reg) : regAt (regOffset r) = some r := by cases r <;> rfl

theorem regOffset_of_regAt {off : Nat} {r : Reg} (h : regAt off = some r) : regOffset r = off := by
  unfold regAt at h
  split at h <;> cases h <;> rfl

end Sys2Proof.Machine
end

