-- ==== Sys2Proof/Laws/ChainOps.lean ====
section
/-! SUPPORT. Laws/ChainOps.lean: what chain_write, chain_read and chain_move do to a state that meets the invariant, one
lemma for each outcome (R104 to R106): the bytes, the sizes, the chunks and the pool. -/

namespace Sys2Proof.Machine

variable {s t : State}

theorem chainBytes_length (s : State) (c : Nat) : (chainBytes s c).length = totalSize s c := chunksBytes_length _

theorem chainBytes_setChain_same {c : Nat} {x : Chain} (h : c < s.chains.length) :
    chainBytes (setChain c x s) c = chunksBytes x.chunks := by
  rw [chainBytes, chainAt_setChain_same x h]

/-- The pool after a chain's chunks are replaced (R38). -/
theorem freeChunks_setChain (h : Invariant s) {c : Nat} (hc : c < nchain s) (x : Chain)
    (hp : usedChunks s + x.chunks.length ≤ s.params.nchunk + (chainAt s c).chunks.length) :
    freeChunks (setChain c x s) + x.chunks.length = freeChunks s + (chainAt s c).chunks.length := by
  have hu := usedChunks_setChain x (s := s) (c := c) (by rw [h.shaped.2]; exact hc)
  have := h.pool
  simp only [freeChunks, setChain_params] at *
  omega

/-! ### chain_write -/

theorem chainWrite_full {c : Nat} {b : List Byte} (h : (chainAt s c).maxcap.toNat < totalSize s c + b.length) :
    chainWrite c b s = .full := by
  unfold chainWrite
  dsimp only
  rw [if_pos h]

theorem chainWrite_nomem {c : Nat} {b : List Byte} (h : ¬(chainAt s c).maxcap.toNat < totalSize s c + b.length)
    (hn : freeChunks s < need (chainAt s c).chunks b.length) : chainWrite c b s = .nomem := by
  unfold chainWrite
  dsimp only
  rw [if_neg h]
  by_cases h0 : b.length = 0
  · rw [h0] at hn
    simp [need, chunkSize] at hn
  · rw [if_neg h0, if_pos hn]

/-- A write that fits is accepted, and this is all it does (R104). -/
theorem chainWrite_accepted (hi : Invariant s) {c : Nat} (hc : c < nchain s) {b : List Byte}
    (h : ¬(chainAt s c).maxcap.toNat < totalSize s c + b.length)
    (hn : need (chainAt s c).chunks b.length ≤ freeChunks s) :
    ∃ t, chainWrite c b s = .ok t ∧ t = { s with chains := t.chains } ∧ (∀ d, d ≠ c → chainAt t d = chainAt s d) ∧
      (chainAt t c).maxcap = (chainAt s c).maxcap ∧ chainBytes t c = chainBytes s c ++ b ∧
      totalSize t c = totalSize s c + b.length ∧
      (chainAt t c).chunks.length = (chainAt s c).chunks.length + need (chainAt s c).chunks b.length ∧
      freeChunks t + need (chainAt s c).chunks b.length = freeChunks s ∧
      (chainAt t c).chunks = (if b = [] then (chainAt s c).chunks else writeChunks (chainAt s c).chunks b) := by
  have hl : c < s.chains.length := by rw [hi.shaped.2]; exact hc
  have ho := hi.chainOk hc
  by_cases h0 : b.length = 0
  · have hb := List.length_eq_zero_iff.mp h0
    subst hb
    refine ⟨s, ?_, rfl, fun _ _ => rfl, rfl, by simp, by simp, ?_, ?_, by simp⟩
    · unfold chainWrite
      dsimp only
      rw [if_neg h]
      simp
    · simp [need, chunkSize]
    · simp [need, chunkSize]
  · have hne : b ≠ [] := by intro h'; simp [h'] at h0
    refine ⟨_, by unfold chainWrite; dsimp only; rw [if_neg h, if_neg h0, if_neg (by omega)], rfl, ?_, ?_, ?_, ?_, ?_, ?_,
      ?_⟩
    · intro d hd
      exact chainAt_setChain_ne _ (Ne.symm hd)
    · rw [chainAt_setChain_same _ hl]
    · rw [chainBytes_setChain_same hl, chunksBytes_writeChunks ho.1]
      rfl
    · rw [totalSize, chainAt_setChain_same _ hl]
      exact chunksTotal_writeChunks ho.1 b
    · rw [chainAt_setChain_same _ hl]
      exact length_writeChunks _ _
    · have := freeChunks_setChain hi hc { chainAt s c with chunks := writeChunks (chainAt s c).chunks b } (by
        have := hi.pool
        simp only [length_writeChunks, freeChunks] at hn ⊢
        omega)
      simp only [length_writeChunks] at this
      omega
    · rw [chainAt_setChain_same _ hl, if_neg hne]

/-! ### chain_read -/

/-- A read takes the oldest bytes of its chain and changes nothing else (R105). -/
theorem chainRead_spec (hi : Invariant s) {c : Nat} (hc : c < nchain s) (n : Nat) :
    chainReadBytes c n s = (chainBytes s c).take n ∧ chainBytes (chainRead c n s) c = (chainBytes s c).drop n ∧
      totalSize (chainRead c n s) c = totalSize s c - min n (totalSize s c) ∧
      (∀ d, d ≠ c → chainAt (chainRead c n s) d = chainAt s d) ∧
      (chainAt (chainRead c n s) c).maxcap = (chainAt s c).maxcap := by
  have hl : c < s.chains.length := by rw [hi.shaped.2]; exact hc
  obtain ⟨h1, h2, -, -⟩ := readChunks_spec (hi.chainOk hc).1 n
  have e2 : chainBytes (chainRead c n s) c = (chainBytes s c).drop n := by
    rw [chainRead, chainBytes_setChain_same hl]
    exact h2
  refine ⟨h1, e2, ?_, ?_, ?_⟩
  · rw [← chainBytes_length, e2, List.length_drop, chainBytes_length]
    omega
  · intro d hd
    exact chainAt_setChain_ne _ (Ne.symm hd)
  · rw [chainRead, chainAt_setChain_same _ hl]

/-- The chunks a read leaves, and the pool: the `p` chunks read to their ends are back in it (R105, R109). -/
theorem chainRead_chunks (hi : Invariant s) {c : Nat} (hc : c < nchain s) (n : Nat) :
    ∃ p r, p ≤ (chainAt s c).chunks.length ∧
      chunksTotal ((chainAt s c).chunks.take p) + r = min n (totalSize s c) ∧
      (∀ k, (chainAt s c).chunks[p]? = some k → k.seek + r < k.data.length) ∧
      (chainAt (chainRead c n s) c).chunks =
        ((chainAt s c).chunks.drop p).modifyHead (fun k => { k with seek := k.seek + r }) ∧
      freeChunks (chainRead c n s) = freeChunks s + p := by
  have hl : c < s.chains.length := by rw [hi.shaped.2]; exact hc
  obtain ⟨p, r, h1, h2, h3, h4⟩ := readChunks_left (hi.chainOk hc).1 n
  have hlen : (readChunks (chainAt s c).chunks n).2.length + p = (chainAt s c).chunks.length := by
    rw [h4, List.length_modifyHead, List.length_drop]
    omega
  have hf := freeChunks_setChain hi hc { chainAt s c with chunks := (readChunks (chainAt s c).chunks n).2 } (by
    have := hi.pool
    show usedChunks s + (readChunks (chainAt s c).chunks n).2.length ≤ _
    omega)
  refine ⟨p, r, h1, h2, h3, ?_, ?_⟩
  · rw [chainRead, chainAt_setChain_same _ hl]
    exact h4
  · simp only [chainRead] at hf ⊢
    omega

/-- A read returns at most the bytes asked for, in any state (R105). -/
theorem length_readChunks_le (ks : List Chunk) (n : Nat) : (readChunks ks n).1.length ≤ n := by
  induction ks generalizing n with
  | nil => simp [readChunks]
  | cons k ks ih =>
    unfold readChunks
    split
    · simp
    · dsimp only
      split
      · have := ih (n - min n (fill k - k.seek))
        simp only [List.length_append, List.length_take, List.length_drop, fill] at *
        omega
      · simp only [List.length_take, List.length_drop]
        omega

/-! ### chain_move -/

theorem chainMove_full {d c : Nat} (h0 : (chainAt s c).chunks ≠ [])
    (h : (chainAt s d).maxcap.toNat < totalSize s d + totalSize s c) : chainMove d c s = .full := by
  unfold chainMove
  dsimp only
  rw [if_neg (by simpa using h0), if_pos h]

/-- A move that fits is accepted, and this is all it does (R106). -/
theorem chainMove_accepted (hi : Invariant s) {d c : Nat} (hd : d < nchain s) (hc : c < nchain s) (hne : d ≠ c)
    (h : ¬(totalSize s c ≠ 0 ∧ (chainAt s d).maxcap.toNat < totalSize s d + totalSize s c)) :
    ∃ t, chainMove d c s = .ok t ∧ t = { s with chains := t.chains } ∧
      (∀ e, e ≠ d → e ≠ c → chainAt t e = chainAt s e) ∧ (chainAt t d).maxcap = (chainAt s d).maxcap ∧
      (chainAt t c).maxcap = (chainAt s c).maxcap ∧ chainBytes t d = chainBytes s d ++ chainBytes s c ∧
      chainBytes t c = [] ∧ freeChunks t = freeChunks s ∧ (totalSize s c = 0 → chainAt t d = chainAt s d) ∧
      totalSize t d = totalSize s d + totalSize s c ∧
      (chainAt t d).chunks = (chainAt s d).chunks ++ (chainAt s c).chunks ∧ (chainAt t c).chunks = [] := by
  have hdl : d < s.chains.length := by rw [hi.shaped.2]; exact hd
  have hcl : c < s.chains.length := by rw [hi.shaped.2]; exact hc
  have hz := chunksTotal_eq_zero (hi.chainOk hc).1
  by_cases h0 : (chainAt s c).chunks = []
  · have t0 : totalSize s c = 0 := hz.mpr h0
    have b0 : chainBytes s c = [] := by rw [chainBytes, h0]; rfl
    refine ⟨s, ?_, rfl, fun _ _ _ => rfl, rfl, rfl, by simp [b0], b0, rfl, fun _ => rfl, by omega, by simp [h0], h0⟩
    unfold chainMove
    dsimp only
    rw [if_pos (by simp [h0])]
  · have t0 : totalSize s c ≠ 0 := fun h => h0 (hz.mp h)
    have hcap : ¬(chainAt s d).maxcap.toNat < totalSize s d + totalSize s c := fun h' => h ⟨t0, h'⟩
    refine ⟨_, by unfold chainMove; dsimp only; rw [if_neg (by simpa using h0), if_neg hcap], rfl, ?_, ?_, ?_, ?_, ?_, ?_,
      fun h => absurd h t0, ?_, ?_, ?_⟩
    · intro e h1 h2
      rw [chainAt_setChain_ne _ (Ne.symm h2), chainAt_setChain_ne _ (Ne.symm h1)]
    · rw [chainAt_setChain_ne _ (Ne.symm hne), chainAt_setChain_same _ hdl]
    · rw [chainAt_setChain_same _ (by simpa using hcl)]
    · rw [chainBytes, chainAt_setChain_ne _ (Ne.symm hne), chainAt_setChain_same _ hdl, chunksBytes_append]
      rfl
    · rw [chainBytes, chainAt_setChain_same _ (by simpa using hcl)]
      rfl
    · have u1 := usedChunks_setChain
        { chainAt s d with chunks := (chainAt s d).chunks ++ (chainAt s c).chunks } hdl
      have u2 := usedChunks_setChain
        (s := setChain d { chainAt s d with chunks := (chainAt s d).chunks ++ (chainAt s c).chunks } s) (c := c)
        { chainAt s c with chunks := [] } (by simpa using hcl)
      rw [chainAt_setChain_ne _ hne] at u2
      simp only [freeChunks, setChain_params, List.length_append, List.length_nil] at *
      congr 1
      omega
    · rw [totalSize, chainAt_setChain_ne _ (Ne.symm hne), chainAt_setChain_same _ hdl, chunksTotal_append]
      rfl
    · rw [chainAt_setChain_ne _ (Ne.symm hne), chainAt_setChain_same _ hdl]
    · rw [chainAt_setChain_same _ (by simpa using hcl)]

end Sys2Proof.Machine
end

