-- ==== Sys2Proof/Laws/Slots.lean ====
section
/-! SUPPORT. Laws/Slots.lean: what abort_asm and the registration of a slot do (R122 to R125), and the invariant through
them. -/

namespace Sys2Proof.Machine

variable {s t : State}

/-! ### abort_asm writes only slots and chains, a registration only slots -/

@[simp] theorem abortAsm_params (i : Nat) (s : State) : (abortAsm i s).params = s.params := rfl
@[simp] theorem abortAsm_lastcmd (i : Nat) (s : State) : (abortAsm i s).lastcmd = s.lastcmd := rfl
@[simp] theorem abortAsm_arg0 (i : Nat) (s : State) : (abortAsm i s).arg0 = s.arg0 := rfl
@[simp] theorem abortAsm_arg1 (i : Nat) (s : State) : (abortAsm i s).arg1 = s.arg1 := rfl
@[simp] theorem abortAsm_res0 (i : Nat) (s : State) : (abortAsm i s).res0 = s.res0 := rfl
@[simp] theorem abortAsm_res1 (i : Nat) (s : State) : (abortAsm i s).res1 = s.res1 := rfl
@[simp] theorem abortAsm_err (i : Nat) (s : State) : (abortAsm i s).err = s.err := rfl
@[simp] theorem abortAsm_run (i : Nat) (s : State) : (abortAsm i s).run = s.run := rfl
@[simp] theorem abortAsm_rxerr (i : Nat) (s : State) : (abortAsm i s).rxerr = s.rxerr := rfl
@[simp] theorem abortAsm_ownaddr (i : Nat) (s : State) : (abortAsm i s).ownaddr = s.ownaddr := rfl
@[simp] theorem abortAsm_crcacc (i : Nat) (s : State) : (abortAsm i s).crcacc = s.crcacc := rfl
@[simp] theorem abortAsm_ev0 (i : Nat) (s : State) : (abortAsm i s).ev0 = s.ev0 := rfl
@[simp] theorem abortAsm_ev1 (i : Nat) (s : State) : (abortAsm i s).ev1 = s.ev1 := rfl
@[simp] theorem abortAsm_rxframes (i : Nat) (s : State) : (abortAsm i s).rxframes = s.rxframes := rfl
@[simp] theorem abortAsm_rxbytes (i : Nat) (s : State) : (abortAsm i s).rxbytes = s.rxbytes := rfl
@[simp] theorem abortAsm_txframes (i : Nat) (s : State) : (abortAsm i s).txframes = s.txframes := rfl
@[simp] theorem abortAsm_txbytes (i : Nat) (s : State) : (abortAsm i s).txbytes = s.txbytes := rfl
@[simp] theorem abortAsm_rxdrop (i : Nat) (s : State) : (abortAsm i s).rxdrop = s.rxdrop := rfl
@[simp] theorem abortAsm_evie (i : Nat) (s : State) : (abortAsm i s).evie = s.evie := rfl
@[simp] theorem abortAsm_errie (i : Nat) (s : State) : (abortAsm i s).errie = s.errie := rfl
@[simp] theorem abortAsm_xbuf (i : Nat) (s : State) : (abortAsm i s).xbuf = s.xbuf := rfl
@[simp] theorem abortAsm_events (i : Nat) (s : State) : (abortAsm i s).events = s.events := rfl
@[simp] theorem abortAsm_rxin (i : Nat) (s : State) : (abortAsm i s).rxin = s.rxin := rfl
@[simp] theorem abortAsm_txout (i : Nat) (s : State) : (abortAsm i s).txout = s.txout := rfl
@[simp] theorem abortAsm_agenda (i : Nat) (s : State) : (abortAsm i s).agenda = s.agenda := rfl
@[simp] theorem abortAsm_readData (i : Nat) (s : State) : (abortAsm i s).readData = s.readData := rfl
@[simp] theorem abortAsm_txAnswers (i : Nat) (s : State) : (abortAsm i s).txAnswers = s.txAnswers := rfl
@[simp] theorem abortAsm_emits (i : Nat) (s : State) : (abortAsm i s).emits = s.emits := rfl
@[simp] theorem abortAsm_resets (i : Nat) (s : State) : (abortAsm i s).resets = s.resets := rfl

@[simp] theorem register_params (i : Nat) (r : Role) (p : Proto) (q : Port) (a : BusAddr) (s : State) :
    (register i r p q a s).params = s.params := rfl
@[simp] theorem register_lastcmd (i : Nat) (r : Role) (p : Proto) (q : Port) (a : BusAddr) (s : State) :
    (register i r p q a s).lastcmd = s.lastcmd := rfl
@[simp] theorem register_arg0 (i : Nat) (r : Role) (p : Proto) (q : Port) (a : BusAddr) (s : State) :
    (register i r p q a s).arg0 = s.arg0 := rfl
@[simp] theorem register_arg1 (i : Nat) (r : Role) (p : Proto) (q : Port) (a : BusAddr) (s : State) :
    (register i r p q a s).arg1 = s.arg1 := rfl
@[simp] theorem register_res0 (i : Nat) (r : Role) (p : Proto) (q : Port) (a : BusAddr) (s : State) :
    (register i r p q a s).res0 = s.res0 := rfl
@[simp] theorem register_res1 (i : Nat) (r : Role) (p : Proto) (q : Port) (a : BusAddr) (s : State) :
    (register i r p q a s).res1 = s.res1 := rfl
@[simp] theorem register_err (i : Nat) (r : Role) (p : Proto) (q : Port) (a : BusAddr) (s : State) :
    (register i r p q a s).err = s.err := rfl
@[simp] theorem register_run (i : Nat) (r : Role) (p : Proto) (q : Port) (a : BusAddr) (s : State) :
    (register i r p q a s).run = s.run := rfl
@[simp] theorem register_rxerr (i : Nat) (r : Role) (p : Proto) (q : Port) (a : BusAddr) (s : State) :
    (register i r p q a s).rxerr = s.rxerr := rfl
@[simp] theorem register_ownaddr (i : Nat) (r : Role) (p : Proto) (q : Port) (a : BusAddr) (s : State) :
    (register i r p q a s).ownaddr = s.ownaddr := rfl
@[simp] theorem register_crcacc (i : Nat) (r : Role) (p : Proto) (q : Port) (a : BusAddr) (s : State) :
    (register i r p q a s).crcacc = s.crcacc := rfl
@[simp] theorem register_ev0 (i : Nat) (r : Role) (p : Proto) (q : Port) (a : BusAddr) (s : State) :
    (register i r p q a s).ev0 = s.ev0 := rfl
@[simp] theorem register_ev1 (i : Nat) (r : Role) (p : Proto) (q : Port) (a : BusAddr) (s : State) :
    (register i r p q a s).ev1 = s.ev1 := rfl
@[simp] theorem register_rxframes (i : Nat) (r : Role) (p : Proto) (q : Port) (a : BusAddr) (s : State) :
    (register i r p q a s).rxframes = s.rxframes := rfl
@[simp] theorem register_rxbytes (i : Nat) (r : Role) (p : Proto) (q : Port) (a : BusAddr) (s : State) :
    (register i r p q a s).rxbytes = s.rxbytes := rfl
@[simp] theorem register_txframes (i : Nat) (r : Role) (p : Proto) (q : Port) (a : BusAddr) (s : State) :
    (register i r p q a s).txframes = s.txframes := rfl
@[simp] theorem register_txbytes (i : Nat) (r : Role) (p : Proto) (q : Port) (a : BusAddr) (s : State) :
    (register i r p q a s).txbytes = s.txbytes := rfl
@[simp] theorem register_rxdrop (i : Nat) (r : Role) (p : Proto) (q : Port) (a : BusAddr) (s : State) :
    (register i r p q a s).rxdrop = s.rxdrop := rfl
@[simp] theorem register_evie (i : Nat) (r : Role) (p : Proto) (q : Port) (a : BusAddr) (s : State) :
    (register i r p q a s).evie = s.evie := rfl
@[simp] theorem register_errie (i : Nat) (r : Role) (p : Proto) (q : Port) (a : BusAddr) (s : State) :
    (register i r p q a s).errie = s.errie := rfl
@[simp] theorem register_xbuf (i : Nat) (r : Role) (p : Proto) (q : Port) (a : BusAddr) (s : State) :
    (register i r p q a s).xbuf = s.xbuf := rfl
@[simp] theorem register_chains (i : Nat) (r : Role) (p : Proto) (q : Port) (a : BusAddr) (s : State) :
    (register i r p q a s).chains = s.chains := rfl
@[simp] theorem register_events (i : Nat) (r : Role) (p : Proto) (q : Port) (a : BusAddr) (s : State) :
    (register i r p q a s).events = s.events := rfl
@[simp] theorem register_rxin (i : Nat) (r : Role) (p : Proto) (q : Port) (a : BusAddr) (s : State) :
    (register i r p q a s).rxin = s.rxin := rfl
@[simp] theorem register_txout (i : Nat) (r : Role) (p : Proto) (q : Port) (a : BusAddr) (s : State) :
    (register i r p q a s).txout = s.txout := rfl
@[simp] theorem register_agenda (i : Nat) (r : Role) (p : Proto) (q : Port) (a : BusAddr) (s : State) :
    (register i r p q a s).agenda = s.agenda := rfl
@[simp] theorem register_readData (i : Nat) (r : Role) (p : Proto) (q : Port) (a : BusAddr) (s : State) :
    (register i r p q a s).readData = s.readData := rfl
@[simp] theorem register_txAnswers (i : Nat) (r : Role) (p : Proto) (q : Port) (a : BusAddr) (s : State) :
    (register i r p q a s).txAnswers = s.txAnswers := rfl
@[simp] theorem register_emits (i : Nat) (r : Role) (p : Proto) (q : Port) (a : BusAddr) (s : State) :
    (register i r p q a s).emits = s.emits := rfl
@[simp] theorem register_resets (i : Nat) (r : Role) (p : Proto) (q : Port) (a : BusAddr) (s : State) :
    (register i r p q a s).resets = s.resets := rfl

@[simp] theorem abortAsm_slots_length (s : State) (i : Nat) : (abortAsm i s).slots.length = s.slots.length := by
  simp [abortAsm, chainClear]

/-- abort_asm ends the slot's assembly and leaves every other slot. -/
theorem slotAt_abortAsm (s : State) (i j : Nat) (hi : i < s.slots.length) :
    slotAt (abortAsm i s) j =
      if j = i then { slotAt s i with asmActive := false, asmErr := false } else slotAt s j := by
  rw [abortAsm, chainClear]
  simp only [slotAt_setChain]
  by_cases h : j = i
  · subst h; simp [slotAt_setSlot_same, hi]
  · simp [h, slotAt_setSlot_ne _ (Ne.symm h)]

/-- abort_asm as one record (R122). -/
theorem abortAsm_eq (s : State) (i : Nat) :
    abortAsm i s =
      { s with
        slots := s.slots.set i { slotAt s i with asmActive := false, asmErr := false }
        chains := s.chains.set (2 * i) { chainAt s (2 * i) with chunks := [] } } := rfl

theorem abortAsm_shaped (h : Shaped s) (i : Nat) : Shaped (abortAsm i s) := by
  simp only [Shaped, nchain] at h ⊢
  simp [abortAsm, chainClear, h]

theorem Invariant.abortAsm (h : Invariant s) {i : Nat} (hi : i < s.params.nslot) : Invariant (abortAsm i s) := by
  have ho := h.slotOk hi
  have h1 : Invariant (Machine.setSlot i { slotAt s i with asmActive := false, asmErr := false } s) :=
    h.setSlot_sameRegistration hi ⟨ho.1, by simp, by simp⟩ rfl rfl rfl
  exact h1.chainClear (asmChain_lt (s := Machine.setSlot i _ s) hi)

/-- conflict looks at the other slots only, so abort_asm does not change it (R123, R124). -/
theorem conflict_abortAsm (i : Nat) (role : Role) (port : Port) (remote : BusAddr) :
    conflict (abortAsm i s) i role port remote = conflict s i role port remote := by
  simp only [conflict, abortAsm_params]
  congr 1
  funext j
  by_cases hj : j = i
  · simp [hj]
  · have : slotAt (Machine.abortAsm i s) j = slotAt s j := by
      rw [Machine.abortAsm, Machine.chainClear]
      simp only [slotAt_setChain]
      rw [slotAt_setSlot_ne _ (Ne.symm hj)]
    rw [this]

/-- A registration without conflict keeps the invariant (R34, R124). -/
theorem Invariant.register (h : Invariant s) {i : Nat} {role : Role} {proto : Proto} {port : Port} {remote : BusAddr}
    (hi : i < s.params.nslot) (hb : badRemote role remote = false) (hc : conflict s i role port remote = false)
    (ha : (slotAt s i).asmActive = false) (he : (slotAt s i).asmErr = false) :
    Invariant (register i role proto port remote s) := by
  have hcj : ∀ j < s.params.nslot, j ≠ i → excludes (slotAt s j) role port remote = false := by
    intro j hj hne
    simp only [conflict, List.any_eq_false, List.mem_range] at hc
    have := hc j hj
    simpa [hne] using this
  refine h.setSlot hi ⟨?_, ?_, ?_⟩ ?_ ?_
  · intro hp
    simp only at hp
    simpa [badRemote, hp] using hb
  · intro h'; simp [ha] at h'
  · intro _; exact he
  · intro hl j hj hne lj hp
    have := hcj j hj hne
    simp only at hl hp
    simp [excludes, hl, lj, hp] at this
  · intro hl j hj hne lj hp hr
    have := hcj j hj hne
    simp only at hl hp hr
    simp [excludes, hl, lj, hp, hr] at this

end Sys2Proof.Machine
end

