-- ==== Sys2Proof/Laws/Receive.lean ====
section
/-! SUPPORT. Laws/Receive.lean: what the dispatcher's lookups give (R132, R133), and the invariant through append, finish
and the ends of a transfer (R135 to R137). -/

namespace Sys2Proof.Machine

variable {s t : State}

/-! ### Lookups -/

theorem findPeer_some {ok : Role → Bool} {port : Port} {src : BusAddr} {i : Nat} (h : findPeer s ok port src = some i) :
    i < s.params.nslot ∧ ok (slotAt s i).role = true ∧ (slotAt s i).port = port ∧ (slotAt s i).remote = src := by
  have h1 := List.mem_of_find?_eq_some h
  have h2 := List.find?_some h
  simp at h1 h2
  exact ⟨h1, h2.1.1, h2.1.2, h2.2⟩

theorem findPeer_none {ok : Role → Bool} {port : Port} {src : BusAddr} (h : findPeer s ok port src = none) :
    ∀ i < s.params.nslot, ¬(ok (slotAt s i).role = true ∧ (slotAt s i).port = port ∧ (slotAt s i).remote = src) := by
  intro i hi
  have := List.find?_eq_none.mp h i (List.mem_range.mpr hi)
  simp at this
  exact fun ⟨a, b, c⟩ => this a b c

theorem findPort_some {role : Role} {port : Port} {i : Nat} (h : findPort s role port = some i) :
    i < s.params.nslot ∧ (slotAt s i).role = role ∧ (slotAt s i).port = port := by
  have h1 := List.mem_of_find?_eq_some h
  have h2 := List.find?_some h
  simp at h1 h2
  exact ⟨h1, h2.1, h2.2⟩

theorem findPort_none {role : Role} {port : Port} (h : findPort s role port = none) :
    ∀ i < s.params.nslot, ¬((slotAt s i).role = role ∧ (slotAt s i).port = port) := by
  intro i hi
  have := List.find?_eq_none.mp h i (List.mem_range.mpr hi)
  simp at this
  exact fun ⟨a, b⟩ => this a b

/-- A peered slot of a port and source is unique (R34 (b)), so the lookup gives it. -/
theorem findPeer_eq (h : Invariant s) {ok : Role → Bool} (hok : ∀ r, ok r = true → isPeered r = true) {port : Port}
    {src : BusAddr} {i : Nat} (hi : i < s.params.nslot) (hr : ok (slotAt s i).role = true)
    (hp : (slotAt s i).port = port) (hm : (slotAt s i).remote = src) : findPeer s ok port src = some i := by
  cases hf : findPeer s ok port src with
  | none => exact absurd ⟨hr, hp, hm⟩ (findPeer_none hf i hi)
  | some j =>
    obtain ⟨hj, rj, pj, mj⟩ := findPeer_some hf
    rw [h.peers j hj i hi (hok _ rj) (hok _ hr) (by rw [pj, hp]) (by rw [mj, hm])]

/-- A listening slot of a port is unique (R34 (a)), so the lookup gives it. -/
theorem findPort_eq (h : Invariant s) {role : Role} (hrole : isListening role = true) {port : Port} {i : Nat}
    (hi : i < s.params.nslot) (hr : (slotAt s i).role = role) (hp : (slotAt s i).port = port) :
    findPort s role port = some i := by
  cases hf : findPort s role port with
  | none => exact absurd ⟨hr, hp⟩ (findPort_none hf i hi)
  | some j =>
    obtain ⟨hj, rj, pj⟩ := findPort_some hf
    rw [h.ports j hj i hi (by rw [rj, hrole]) (by rw [hr, hrole]) (by rw [pj, hp])]

theorem routeData_some {f : Frame} {i : Nat} (h : routeData s f = some i) :
    i < s.params.nslot ∧ ((slotAt s i).role = .bound ∨ (slotAt s i).role = .connected) := by
  unfold routeData at h
  split at h
  · rename_i hj
    cases h
    have := findPeer_some hj
    exact ⟨this.1, .inr (by simpa [roleIs] using this.2.1)⟩
  · have := findPort_some h
    exact ⟨this.1, .inl this.2.1⟩

/-! ### Frames of the primitives -/

theorem chainWrite_same {c : Nat} {b : List Byte} (h : chainWrite c b s = .ok t) :
    t.params = s.params ∧ t.events = s.events ∧ t.slots = s.slots := by
  obtain ⟨-, ⟨-, rfl⟩ | ⟨-, rfl⟩⟩ := chainWrite_ok h <;> simp

theorem chainMove_same {d c : Nat} (h : chainMove d c s = .ok t) :
    t.params = s.params ∧ t.events = s.events ∧ t.slots = s.slots := by
  obtain ⟨-, rfl⟩ | ⟨-, rfl⟩ := chainMove_ok h <;> simp

@[simp] theorem transferFails_params (f : Frame) (i : Nat) (v : Half) (r : Byte) :
    (transferFails f i v r s).params = s.params := by
  unfold transferFails; dsimp only; split <;> rfl

/-! ### The invariant -/

theorem Invariant.setRxSeq (h : Invariant s) {i : Nat} (hi : i < s.params.nslot) (q : Seq) :
    Invariant (Machine.setSlot i { slotAt s i with rxSeq := q } s) :=
  h.setSlot_sameRegistration hi (h.slotOk hi) rfl rfl rfl

theorem Invariant.asmEnds (h : Invariant s) {i : Nat} (hi : i < s.params.nslot) : Invariant (asmEnds i s) :=
  h.setSlot_sameRegistration hi ⟨(h.slotOk hi).1, by simp, by simp⟩ rfl rfl rfl

theorem Invariant.transferFails (h : Invariant s) (f : Frame) {i : Nat} (hi : i < s.params.nslot)
    (hr : evCount s < s.params.evqDepth) (v : Half) (r : Byte) : Invariant (transferFails f i v r s) := by
  have hc := h.chainClear (asmChain_lt (s := s) hi)
  unfold Machine.transferFails
  dsimp only
  split
  · exact hc.post hr (h.slotNumber hi)
  · exact hc

theorem Invariant.transferDone (h : Invariant s) (f : Frame) {i : Nat} (hi : i < s.params.nslot)
    (hr : evCount s < s.params.evqDepth) (q : Seq) (v : Half) : Invariant (transferDone f i q v s) :=
  (h.setRxSeq hi q).post hr (h.slotNumber hi)

/-- append keeps the invariant while an assembly is in progress (R34 (e), R135). -/
theorem Invariant.appendAsm (h : Invariant s) {i : Nat} {b : List Byte} (hi : i < s.params.nslot)
    (ha : (slotAt s i).asmActive = true) :
    Invariant (appendAsm i b s) ∧ (appendAsm i b s).params = s.params ∧ (appendAsm i b s).events = s.events := by
  unfold Machine.appendAsm
  split
  · exact ⟨h, rfl, rfl⟩
  · have ho := h.slotOk hi
    split
    · rename_i s' hw
      have h1 := h.chainWrite (asmChain_lt hi) hw
      obtain ⟨e1, e2, e3⟩ := chainWrite_same hw
      have hs : slotAt s' i = slotAt s i := by simp only [slotAt, e3]
      refine ⟨h1.setSlot_sameRegistration (by rw [e1]; exact hi) ?_ rfl rfl rfl, e1, e2⟩
      rw [hs]; exact ho
    · exact ⟨h.setSlot_sameRegistration hi ⟨ho.1, ho.2.1, by simp [ha]⟩ rfl rfl rfl, rfl, rfl⟩
    · exact ⟨h.setSlot_sameRegistration hi ⟨ho.1, ho.2.1, by simp [ha]⟩ rfl rfl rfl, rfl, rfl⟩

/-- finish keeps the invariant where the event FIFO has room (R127, R136). -/
theorem Invariant.finishAsm (h : Invariant s) (f : Frame) {i : Nat} (hi : i < s.params.nslot)
    (hr : evCount s < s.params.evqDepth) : Invariant (finishAsm f i s) := by
  unfold Machine.finishAsm
  dsimp only
  have hfail : ∀ v r, Invariant (Machine.asmEnds i (Machine.transferFails f i v r s)) := fun v r =>
    (h.transferFails f hi hr v r).asmEnds (by simpa using hi)
  split
  · exact hfail _ _
  · split
    · exact hfail _ _
    · split
      · exact hfail _ _
      · split
        · rename_i hm
          obtain ⟨e1, e2, e3⟩ := chainMove_same hm
          have h1 := h.chainMove (readyChain_lt hi) (asmChain_lt hi) (readyChain_ne_asmChain i i) hm
          exact (h1.transferDone f (by rw [e1]; exact hi) (by simpa [evCount, e1, e2] using hr) _ _).asmEnds
            (by simpa [Machine.transferDone, e1] using hi)
        · exact hfail _ _
        · exact hfail _ _

end Sys2Proof.Machine
end

