-- ==== Sys2Proof/Laws/Dispatcher.lean ====
section
/-! SUPPORT. Laws/Dispatcher.lean: what one frame, and one turn of the dispatcher, can do: a handler writes only slots,
chains and the event FIFO (R52), and a turn is nothing or one frame taken (R127, R128). -/

namespace Sys2Proof.Machine

variable {s t u : State}

/-- `t` is `s` but for the slot table, the chains and the event FIFO. -/
abbrev OnlyTable (s t : State) : Prop := t = { s with slots := t.slots, chains := t.chains, events := t.events }

theorem OnlyTable.trans (h : OnlyTable s t) (k : OnlyTable t u) : OnlyTable s u := by
  unfold OnlyTable at *
  rw [k, h]

theorem onlyTable_chainWrite {c : Nat} {b : List Byte} (h : chainWrite c b s = .ok t) : OnlyTable s t := by
  obtain ⟨-, ⟨-, rfl⟩ | ⟨-, rfl⟩⟩ := chainWrite_ok h <;> rfl

theorem onlyTable_chainMove {d c : Nat} (h : chainMove d c s = .ok t) : OnlyTable s t := by
  obtain ⟨-, rfl⟩ | ⟨-, rfl⟩ := chainMove_ok h <;> rfl

theorem onlyTable_abortAsm (i : Nat) (s : State) : OnlyTable s (abortAsm i s) := rfl

theorem onlyTable_appendAsm (i : Nat) (b : List Byte) (s : State) : OnlyTable s (appendAsm i b s) := by
  unfold appendAsm
  split
  · rfl
  · split
    · rename_i h
      exact (onlyTable_chainWrite h).trans rfl
    · rfl
    · rfl

theorem onlyTable_transferFails (f : Frame) (i : Nat) (v : Half) (r : Byte) (s : State) :
    OnlyTable s (transferFails f i v r s) := by
  unfold transferFails
  dsimp only
  split <;> rfl

theorem onlyTable_transferDone (f : Frame) (i : Nat) (q : Seq) (v : Half) (s : State) :
    OnlyTable s (transferDone f i q v s) := rfl

theorem onlyTable_asmEnds (i : Nat) (s : State) : OnlyTable s (asmEnds i s) := rfl

theorem onlyTable_finishAsm (f : Frame) (i : Nat) (s : State) : OnlyTable s (finishAsm f i s) := by
  unfold finishAsm
  dsimp only
  repeat' split
  any_goals exact (onlyTable_transferFails _ _ _ _ _).trans (onlyTable_asmEnds _ _)
  rename_i h
  exact ((onlyTable_chainMove h).trans (onlyTable_transferDone _ _ _ _ _)).trans (onlyTable_asmEnds _ _)

/-- What a handler that takes its frame may write (R52). -/
theorem onlyTable_handle {f : Frame} (h : handle f s = some t) : OnlyTable s t := by
  unfold handle at h
  split at h
  · simp only [handleFirst, Option.map_eq_some_iff] at h
    obtain ⟨i, -, rfl⟩ := h
    exact OnlyTable.trans (t := startAsm f i (abortAsm i s)) rfl (onlyTable_appendAsm _ _ _)
  · simp only [handleNext] at h
    split at h
    · cases h
    · split at h <;> cases h
      exact onlyTable_appendAsm _ _ _
  · simp only [handleLast] at h
    split at h
    · cases h
    · split at h <;> cases h
      exact (onlyTable_appendAsm _ _ _).trans (onlyTable_finishAsm _ _ _)
  · simp only [handleSingle, Option.map_eq_some_iff] at h
    obtain ⟨i, -, rfl⟩ := h
    split
    · rename_i hw
      have := (onlyTable_abortAsm i s).trans (onlyTable_chainWrite hw)
      split
      · rename_i hm
        exact (this.trans (onlyTable_chainMove hm)).trans (onlyTable_transferDone _ _ _ _ _)
      · exact this.trans (onlyTable_transferFails _ _ _ _ _)
      · exact this.trans (onlyTable_transferFails _ _ _ _ _)
    · exact (onlyTable_abortAsm i s).trans (onlyTable_transferFails _ _ _ _ _)
    · exact (onlyTable_abortAsm i s).trans (onlyTable_transferFails _ _ _ _ _)
  · simp only [handleConnect] at h
    split at h <;> simp only [Option.map_eq_some_iff] at h <;> obtain ⟨i, -, rfl⟩ := h
    · split <;> rfl
    · rfl
  · simp only [handleDisconnect, Option.map_eq_some_iff] at h
    obtain ⟨i, -, rfl⟩ := h
    rfl
  · simp only [handleStat, Option.map_eq_some_iff] at h
    obtain ⟨i, -, rfl⟩ := h
    split <;> rfl
  · simp only [handleAck, Option.map_eq_some_iff] at h
    obtain ⟨i, -, rfl⟩ := h
    rfl

/-- A frame ends in `drop`, or in `take` after its handler (R128). -/
theorem receive_cases (f : Frame) (s : State) :
    receive f s = drop s ∨ ∃ t, OnlyTable s t ∧ handle f s = some t ∧ receive f s = take f t := by
  unfold receive
  split
  · exact .inl rfl
  · split
    · exact .inl rfl
    · rename_i t ht
      exact .inr ⟨t, onlyTable_handle ht, ht, rfl⟩

/-- A turn of the dispatcher: held, or the head of RXIN received (R127, R128). -/
theorem dispatcherTurn_cases (s : State) :
    dispatcherTurn s = s ∨
      ∃ f fs, s.rxin = f :: fs ∧ s.run = true ∧ evCount s < s.params.evqDepth ∧
        dispatcherTurn s = receive f { s with rxin := fs } := by
  unfold dispatcherTurn
  split
  · rename_i he
    simp [dispatcherEnabled] at he
    unfold dispatcherStep
    split
    · exact .inl rfl
    · rename_i f fs hr
      exact .inr ⟨f, fs, hr, he.1.1, he.2, rfl⟩
  · exact .inl rfl

end Sys2Proof.Machine
end

