-- ==== Sys2Proof/Laws/Exec.lean ====
section
/-! SUPPORT. Laws/Exec.lean: one inversion lemma for each command that has more than one outcome: what a next state of it
can be, the guards included. The commands with one outcome are their definitions. -/

namespace Sys2Proof.Machine

variable {s t : State}

theorem badOwnAddr_iff (w : Word) : badOwnAddr w = true ↔ w.toNat = 0 ∨ 0x3FFF ≤ w.toNat := by
  rw [badOwnAddr, Bool.or_eq_true, decide_eq_true_eq, decide_eq_true_eq]

theorem above14_iff (w : Word) : above14 w = true ↔ 0x3FFF < w.toNat := by rw [above14, decide_eq_true_eq]

theorem execCrcUpdate_cases {len : Half} (h : execCrcUpdate len s = .next t) :
    t = fail .badarg s ∨
      (badRange s.arg0.toNat len.toNat = false ∧
        t = done (setRes0 ((crcFold s.crcacc (xreadRange s s.arg0.toNat len.toNat)).setWidth 32)
          { s with crcacc := crcFold s.crcacc (xreadRange s s.arg0.toNat len.toNat) })) := by
  unfold execCrcUpdate at h
  dsimp only at h
  split at h <;> cases h
  · exact .inl rfl
  · exact .inr ⟨by simp_all, rfl⟩

theorem execBufInit_cases {ch : BitVec 4} {m : Half} (h : execBufInit ch m s = .next t) :
    t = fail .badarg s ∨ t = fail .busy s ∨
      (badChain s ch.toNat = false ∧ locked s ch.toNat = false ∧
        t = done (setChain ch.toNat { maxcap := m, chunks := [] } s)) := by
  unfold execBufInit at h
  dsimp only at h
  split at h
  · cases h; exact .inl rfl
  · split at h <;> cases h
    · exact .inr (.inl rfl)
    · exact .inr (.inr ⟨by simp_all, by simp_all, rfl⟩)

theorem execBufWrite_cases {ch : BitVec 4} {len : Half} (h : execBufWrite ch len s = .next t) :
    (t = fail .badarg s ∨ t = fail .busy s ∨ t = fail .full s ∨ t = fail .nomem s) ∨
      (badChain s ch.toNat = false ∧ badRange s.arg0.toNat len.toNat = false ∧ locked s ch.toNat = false ∧
        ∃ u, chainWrite ch.toNat (xreadRange s s.arg0.toNat len.toNat) s = .ok u ∧
          t = done (setRes0Nat (totalSize u ch.toNat) u)) := by
  unfold execBufWrite at h
  dsimp only at h
  split at h
  · cases h; exact .inl (.inl rfl)
  · rename_i hb
    simp only [Bool.or_eq_true, not_or, Bool.not_eq_true] at hb
    split at h
    · cases h; exact .inl (.inr (.inl rfl))
    · split at h <;> cases h
      · exact .inr ⟨hb.1, hb.2, by simp_all, _, ‹_›, rfl⟩
      · exact .inl (.inr (.inr (.inl rfl)))
      · exact .inl (.inr (.inr (.inr rfl)))

theorem execBufRead_cases {ch : BitVec 4} {len : Half} (h : execBufRead ch len s = .next t) :
    t = fail .badarg s ∨ t = fail .busy s ∨
      (badChain s ch.toNat = false ∧ badRange s.arg0.toNat len.toNat = false ∧ locked s ch.toNat = false ∧
        t = done (setRes1Nat (totalSize (chainRead ch.toNat len.toNat s) ch.toNat)
          (setRes0Nat (chainReadBytes ch.toNat len.toNat s).length
            (xwriteRange s.arg0.toNat (chainReadBytes ch.toNat len.toNat s)
              (chainRead ch.toNat len.toNat s))))) := by
  unfold execBufRead at h
  dsimp only at h
  split at h
  · cases h; exact .inl rfl
  · rename_i hb
    simp only [Bool.or_eq_true, not_or, Bool.not_eq_true] at hb
    split at h
    · cases h; exact .inr (.inl rfl)
    · exact .inr (.inr ⟨hb.1, hb.2, by simp_all, (Host.Outcome.next.inj h).symm⟩)

theorem execBufMove_cases {dst src : BitVec 4} (h : execBufMove dst src s = .next t) :
    (t = fail .badarg s ∨ t = fail .busy s ∨ t = fail .full s) ∨
      (badChain s dst.toNat = false ∧ badChain s src.toNat = false ∧ dst.toNat ≠ src.toNat ∧
        locked s dst.toNat = false ∧ locked s src.toNat = false ∧
        ∃ u, chainMove dst.toNat src.toNat s = .ok u ∧ t = done (setRes0Nat (totalSize u dst.toNat) u)) := by
  unfold execBufMove at h
  dsimp only at h
  split at h
  · cases h; exact .inl (.inl rfl)
  · rename_i hb
    simp only [Bool.or_eq_true, not_or, Bool.not_eq_true, decide_eq_true_eq] at hb
    split at h
    · cases h; exact .inl (.inr (.inl rfl))
    · rename_i hl
      simp only [Bool.or_eq_true, not_or, Bool.not_eq_true] at hl
      split at h
      · cases h; exact .inr ⟨hb.1.1, hb.1.2, hb.2, hl.1, hl.2, _, ‹_›, rfl⟩
      · cases h; exact .inl (.inr (.inr rfl))
      · exact absurd ‹_› (chainMove_ne_nomem _ _ _)

theorem execBufClear_cases {ch : BitVec 4} (h : execBufClear ch s = .next t) :
    t = fail .badarg s ∨ t = fail .busy s ∨
      (badChain s ch.toNat = false ∧ locked s ch.toNat = false ∧ t = done (chainClear ch.toNat s)) := by
  unfold execBufClear at h
  dsimp only at h
  split at h
  · cases h; exact .inl rfl
  · split at h <;> cases h
    · exact .inr (.inl rfl)
    · exact .inr (.inr ⟨by simp_all, by simp_all, rfl⟩)

theorem execBufIsfull_cases {ch : BitVec 4} (h : execBufIsfull ch s = .next t) :
    t = fail .badarg s ∨
      (badChain s ch.toNat = false ∧ t = done (setRes0 (bit32 (isFull s ch.toNat)) s)) := by
  unfold execBufIsfull at h
  dsimp only at h
  split at h <;> cases h
  · exact .inl rfl
  · exact .inr ⟨by simp_all, rfl⟩

theorem execBufAvail_cases {ch : BitVec 4} (h : execBufAvail ch s = .next t) :
    t = fail .badarg s ∨
      (badChain s ch.toNat = false ∧ t = done (setRes0Nat (available s ch.toNat) s)) := by
  unfold execBufAvail at h
  dsimp only at h
  split at h <;> cases h
  · exact .inl rfl
  · exact .inr ⟨by simp_all, rfl⟩

theorem execBufSize_cases {ch : BitVec 4} (h : execBufSize ch s = .next t) :
    t = fail .badarg s ∨
      (badChain s ch.toNat = false ∧ t = done (setRes0Nat (totalSize s ch.toNat) s)) := by
  unfold execBufSize at h
  dsimp only at h
  split at h <;> cases h
  · exact .inl rfl
  · exact .inr ⟨by simp_all, rfl⟩

theorem execSlotSet_cases {slot : BitVec 4} {role : BitVec 3} {proto : Proto} {port : Port}
    (h : execSlotSet slot role proto port s = .next t) :
    (t = fail .badarg s ∨ t = fail .portbusy s) ∨
      ∃ r, badSlot s slot.toNat = false ∧ settableRole role = some r ∧ above14 s.arg0 = false ∧
        badRemote r (addrOf s.arg0) = false ∧ conflict s slot.toNat r port (addrOf s.arg0) = false ∧
        t = done (register slot.toNat r proto port (addrOf s.arg0) (abortAsm slot.toNat s)) := by
  unfold execSlotSet at h
  dsimp only at h
  split at h
  · cases h; exact .inl (.inl rfl)
  · split at h
    · cases h; exact .inl (.inl rfl)
    · split at h
      · cases h; exact .inl (.inl rfl)
      · split at h
        · cases h; exact .inl (.inl rfl)
        · split at h <;> cases h
          · exact .inl (.inr rfl)
          · exact .inr ⟨_, by simp_all, ‹_›, by simp_all, by simp_all, by simp_all, rfl⟩

theorem execSlotFree_cases {slot : BitVec 4} (h : execSlotFree slot s = .next t) :
    t = fail .badarg s ∨
      (badSlot s slot.toNat = false ∧
        t = done (register slot.toNat .free .dgram 0 addrAny
          (chainClear (readyChain slot.toNat) (abortAsm slot.toNat s)))) := by
  unfold execSlotFree at h
  dsimp only at h
  split at h <;> cases h
  · exact .inl rfl
  · exact .inr ⟨by simp_all, rfl⟩

theorem execSlotGet_cases {slot : BitVec 4} (h : execSlotGet slot s = .next t) :
    t = fail .badarg s ∨
      (badSlot s slot.toNat = false ∧
        t = done (setRes1 (slotWord1 (slotAt s slot.toNat)) (setRes0 (slotWord0 (slotAt s slot.toNat)) s))) := by
  unfold execSlotGet at h
  dsimp only at h
  split at h <;> cases h
  · exact .inl rfl
  · exact .inr ⟨by simp_all, rfl⟩

theorem execIfUp_cases (h : execIfUp s = .next t) :
    t = fail .badarg s ∨
      (badOwnAddr s.arg0 = false ∧
        t = done { s with ownaddr := addrOf s.arg0, run := true, rxerr := false }) := by
  unfold execIfUp at h
  split at h <;> cases h
  · exact .inl rfl
  · exact .inr ⟨by simp_all, rfl⟩

theorem execTxSend_cases {ty : FrameType} {port : Port} {seq : Seq} {len : BitVec 4}
    (h : execTxSend ty port seq len s = .next t) :
    (t = fail .badarg s ∨ t = fail .notup s) ∨
      (len.toNat ≤ 7 ∧ above14 s.arg0 = false ∧ s.run = true ∧
        ((txAnswer s = false ∧ t = fail .ioerr (answerUsed s)) ∨
          (txAnswer s = true ∧ t = done (answerUsed (sent (txFrame ty port seq len s) s))))) := by
  unfold execTxSend at h
  split at h
  · cases h; exact .inl (.inl rfl)
  · rename_i hb
    simp only [Bool.or_eq_true, not_or, Bool.not_eq_true, decide_eq_true_eq, Nat.not_lt] at hb
    split at h
    · cases h; exact .inl (.inr rfl)
    · have hr : s.run = true := by simp_all
      split at h <;> cases h
      · exact .inr ⟨hb.1, hb.2, hr, .inr ⟨‹_›, rfl⟩⟩
      · exact .inr ⟨hb.1, hb.2, hr, .inl ⟨by simp_all, rfl⟩⟩

theorem execEvPop_cases (h : execEvPop s = .next t) :
    (s.events = [] ∧ t = done { s with ev0 := 0, ev1 := 0 }) ∨
      ∃ e es, s.events = e :: es ∧ t = done { s with ev0 := ev0Word e, ev1 := ev1Word e, events := es } := by
  unfold execEvPop at h
  split at h <;> cases h
  · exact .inl ⟨‹_›, rfl⟩
  · exact .inr ⟨_, _, ‹_›, rfl⟩

end Sys2Proof.Machine
end

