-- ==== Sys2Proof/Laws/PerInstr.lean ====
section
/-! SUPPORT. Laws/PerInstr.lean: one statement for every command, one lemma a constructor. Family MatchesRow: the
command's word satisfies its row of the opcode table, `(w & mask) = match` (R67, R68). -/

namespace Sys2Proof.Laws.MatchesRow

/-- The word of the command meets its row's mask and match. -/
def Statement (i : Instr) : Prop := encode i &&& rowMask i.mnemonic = rowMatch i.mnemonic

theorem nop : Statement .nop := by unfold Statement; decide

theorem hdrPack (ty : FrameType) (port : Port) (seq : Seq) : Statement (.hdrPack ty port seq) := by
  refine (formatFH_and _ _ _ _ _ 0xFF#8 0#3 0#3 0#2 0xFFF#12 0xF#4).trans ?_
  simp only [BitVec.and_zero, Instr.mnemonic]
  decide

theorem hdrUnpack (b : Byte) : Statement (.hdrUnpack b) := by
  unfold Statement
  revert b
  decide

theorem idPack : Statement .idPack := by unfold Statement; decide

theorem idUnpack : Statement .idUnpack := by unfold Statement; decide

theorem idMatch : Statement .idMatch := by unfold Statement; decide

theorem crcInit : Statement .crcInit := by unfold Statement; decide

theorem crcUpdate (len : Half) : Statement (.crcUpdate len) := by
  refine (formatFI_and _ _ 0xFF#8 0xFF#8 0#16).trans ?_
  simp only [BitVec.and_zero, Instr.mnemonic]
  decide

theorem bufInit (ch : BitVec 4) (maxcap : Half) : Statement (.bufInit ch maxcap) := by
  refine (formatFB_and _ _ _ _ 0xFF#8 0#4 0xF#4 0#16).trans ?_
  simp only [BitVec.and_zero, Instr.mnemonic]
  decide

theorem bufWrite (ch : BitVec 4) (len : Half) : Statement (.bufWrite ch len) := by
  refine (formatFB_and _ _ _ _ 0xFF#8 0#4 0xF#4 0#16).trans ?_
  simp only [BitVec.and_zero, Instr.mnemonic]
  decide

theorem bufRead (ch : BitVec 4) (len : Half) : Statement (.bufRead ch len) := by
  refine (formatFB_and _ _ _ _ 0xFF#8 0#4 0xF#4 0#16).trans ?_
  simp only [BitVec.and_zero, Instr.mnemonic]
  decide

theorem bufMove (dst src : BitVec 4) : Statement (.bufMove dst src) := by
  refine (formatFB_and _ _ _ _ 0xFF#8 0#4 0#4 0xFFFF#16).trans ?_
  simp only [BitVec.and_zero, Instr.mnemonic]
  decide

theorem bufClear (ch : BitVec 4) : Statement (.bufClear ch) := by
  refine (formatFB_and _ _ _ _ 0xFF#8 0#4 0xF#4 0xFFFF#16).trans ?_
  simp only [BitVec.and_zero, Instr.mnemonic]
  decide

theorem bufIsfull (ch : BitVec 4) : Statement (.bufIsfull ch) := by
  refine (formatFB_and _ _ _ _ 0xFF#8 0#4 0xF#4 0xFFFF#16).trans ?_
  simp only [BitVec.and_zero, Instr.mnemonic]
  decide

theorem bufAvail (ch : BitVec 4) : Statement (.bufAvail ch) := by
  refine (formatFB_and _ _ _ _ 0xFF#8 0#4 0xF#4 0xFFFF#16).trans ?_
  simp only [BitVec.and_zero, Instr.mnemonic]
  decide

theorem bufSize (ch : BitVec 4) : Statement (.bufSize ch) := by
  refine (formatFB_and _ _ _ _ 0xFF#8 0#4 0xF#4 0xFFFF#16).trans ?_
  simp only [BitVec.and_zero, Instr.mnemonic]
  decide

theorem slotSet (slot : BitVec 4) (role : BitVec 3) (proto : Proto) (port : Port) :
    Statement (.slotSet slot role proto port) := by
  refine (formatFS_and _ _ _ _ _ 0xFF#8 0#4 0x1#1 0#3 0x7F#7 0#1 0x1F#5 0#3).trans ?_
  simp only [BitVec.and_zero, Instr.mnemonic]
  decide

theorem slotFree (slot : BitVec 4) : Statement (.slotFree slot) := by
  refine (formatFS_and _ _ _ _ _ 0xFF#8 0#4 0x1#1 0x7#3 0x7F#7 0x1#1 0x1F#5 0x7#3).trans ?_
  simp only [BitVec.and_zero, Instr.mnemonic]
  decide

theorem slotGet (slot : BitVec 4) : Statement (.slotGet slot) := by
  refine (formatFS_and _ _ _ _ _ 0xFF#8 0#4 0x1#1 0x7#3 0x7F#7 0x1#1 0x1F#5 0x7#3).trans ?_
  simp only [BitVec.and_zero, Instr.mnemonic]
  decide

theorem ifUp : Statement .ifUp := by unfold Statement; decide

theorem ifDown : Statement .ifDown := by unfold Statement; decide

theorem cntClear : Statement .cntClear := by unfold Statement; decide

theorem txSend (ty : FrameType) (port : Port) (seq : Seq) (len : BitVec 4) :
    Statement (.txSend ty port seq len) := by
  refine (formatFH_and _ _ _ _ _ 0xFF#8 0#3 0#3 0#2 0xFFF#12 0#4).trans ?_
  simp only [BitVec.and_zero, Instr.mnemonic]
  decide

theorem evPop : Statement .evPop := by unfold Statement; decide

end Sys2Proof.Laws.MatchesRow
end

