-- ==== Sys2Proof/Laws/Step.lean ====
section
/-! SUPPORT. Laws/Step.lean: one inversion lemma for step: every next state of it, agent by agent (R15). -/

namespace Sys2Proof.Machine

variable {s t : State}

/-- Every way a step answers a next state. -/
theorem step_cases (h : step s = .next t) :
    (t = dispatcherTurn s ∧ s.agenda = []) ∨
      ∃ tn ts, s.agenda = tn :: ts ∧
        ((tn = .dispatcher ∧ t = dispatcherTurn { s with agenda := ts }) ∨
          (∃ w a, tn = .read w a ∧ t = { s with agenda := ts, readData := t.readData }) ∨
          (∃ w a v, tn = .write w a v ∧
            (t = { s with agenda := ts } ∨
              (w = 4 ∧ ∃ off, a = s.params.base + off ∧
                ((off = 0 ∧ runCommand v { s with agenda := ts } = .next t) ∨
                  (off = 4 ∧ t = { s with agenda := ts, arg0 := v }) ∨
                  (off = 8 ∧ t = { s with agenda := ts, arg1 := v }) ∨
                  (off = 0x40 ∧ t = setIrqen v { s with agenda := ts }) ∨
                  (0x100 ≤ off ∧ t = xwriteRange (off - 0x100) (wordBytes v) { s with agenda := ts }))))) ∨
          (∃ f, tn = .rxFrame f ∧ t = offerFrame f { s with agenda := ts }) ∨
          (tn = .rxError ∧ t = rxDeviceError { s with agenda := ts }) ∨
          (tn = .blockReset ∧ t = resetBlock { s with agenda := ts })) := by
  unfold step nextTurn at h
  split at h
  · cases h
    exact .inl ⟨rfl, ‹_›⟩
  · rename_i tn ts hag
    refine .inr ⟨tn, ts, hag, ?_⟩
    cases tn with
    | dispatcher =>
      cases h
      exact .inl ⟨rfl, rfl⟩
    | read w a =>
      refine .inr (.inl ⟨w, a, rfl, ?_⟩)
      simp only [runTurn, hostRead] at h
      split at h
      · cases h
        rfl
      · split at h <;> cases h
        rfl
    | write w a v =>
      refine .inr (.inr (.inl ⟨w, a, v, rfl, ?_⟩))
      simp only [runTurn, hostWrite] at h
      split at h
      · rename_i hw
        rw [wordAccess_iff] at hw
        obtain ⟨rfl, h1, h2, h3⟩ := hw
        have ho : a = s.params.base + (a - s.params.base) := by omega
        generalize a - s.params.base = off at ho h
        unfold writeWindow at h
        split at h
        · right
          exact ⟨rfl, off, ho, .inr (.inr (.inr (.inr ⟨by assumption, (Host.Outcome.next.inj h).symm⟩)))⟩
        · generalize hr : regAt off = r at h
          cases r with
          | none =>
            cases h
            exact .inl rfl
          | some r =>
            have := regOffset_of_regAt hr
            cases r <;> simp only [writeReg, regOffset] at h this
            case cmd => exact .inr ⟨rfl, off, ho, .inl ⟨this.symm, h⟩⟩
            case arg0 =>
              cases h
              exact .inr ⟨rfl, off, ho, .inr (.inl ⟨this.symm, rfl⟩)⟩
            case arg1 =>
              cases h
              exact .inr ⟨rfl, off, ho, .inr (.inr (.inl ⟨this.symm, rfl⟩))⟩
            case irqen =>
              cases h
              exact .inr ⟨rfl, off, ho, .inr (.inr (.inr (.inl ⟨this.symm, rfl⟩)))⟩
            all_goals
              cases h
              exact .inl rfl
      · split at h <;> cases h
        exact .inl rfl
    | rxFrame f =>
      cases h
      exact .inr (.inr (.inr (.inl ⟨f, rfl, rfl⟩)))
    | rxError =>
      cases h
      exact .inr (.inr (.inr (.inr (.inl ⟨rfl, rfl⟩))))
    | blockReset =>
      cases h
      exact .inr (.inr (.inr (.inr (.inr ⟨rfl, rfl⟩))))

end Sys2Proof.Machine
end

