-- ==== Sys2Proof/Laws/Word.lean ====
section
/-! SUPPORT. Laws/Word.lean: words packed from fields by OR and shift, as numbers: each field adds its own multiple
(R10). -/

namespace Sys2Proof.Machine

/-- A field put above the bits in use adds its value times 2^k. -/
theorem toNat_or_field {w n : Nat} (x : BitVec w) (y : BitVec n) (k : Nat) (hx : x.toNat < 2 ^ k) (hn : n + k ≤ w) :
    (x ||| y.setWidth w <<< k).toNat = x.toNat + 2 ^ k * y.toNat := by
  have hy : y.toNat < 2 ^ n := y.isLt
  have h1 : 2 ^ k * y.toNat < 2 ^ w := by
    have h2 : y.toNat * 2 ^ k < 2 ^ n * 2 ^ k := Nat.mul_lt_mul_of_pos_right hy (Nat.two_pow_pos k)
    rw [← Nat.pow_add] at h2
    have h3 : 2 ^ (n + k) ≤ 2 ^ w := Nat.pow_le_pow_right (by omega) hn
    rw [Nat.mul_comm]
    omega
  have h4 : y.toNat < 2 ^ w := lt_of_lt_of_le hy (Nat.pow_le_pow_right (by omega) (by omega))
  rw [BitVec.toNat_or, BitVec.toNat_shiftLeft, BitVec.toNat_setWidth, Nat.mod_eq_of_lt h4, Nat.shiftLeft_eq,
    Nat.mul_comm, Nat.mod_eq_of_lt h1, Nat.or_comm, Nat.add_comm, ← Nat.two_pow_add_eq_or_of_lt hx]

theorem toNat_setWidth_le {w n : Nat} (x : BitVec n) (h : n ≤ w) : (x.setWidth w).toNat = x.toNat := by
  rw [BitVec.toNat_setWidth]
  exact Nat.mod_eq_of_lt (lt_of_lt_of_le x.isLt (Nat.pow_le_pow_right (by omega) h))

theorem bit32_toNat (b : Bool) : (bit32 b).toNat = b.toNat := by cases b <;> rfl

/-- A flag put above the bits in use. -/
theorem toNat_or_bit32 (x : Word) (b : Bool) (k : Nat) (hx : x.toNat < 2 ^ k) (hk : 1 + k ≤ 32) :
    (x ||| bit32 b <<< k).toNat = x.toNat + 2 ^ k * b.toNat := by
  rw [bit32, toNat_or_field x (BitVec.ofBool b) k hx hk]
  cases b <;> rfl

end Sys2Proof.Machine
end

