-- ==== Sys2Proof/Tests/Slice0.lean ====
section
/-! SUPPORT. Tests/Slice0.lean: ill-formed commands the checks refuse, every command's word written out from R61 to R68,
the rules' own examples (R89 to R159) each on one step, and for every obligation with hypotheses a state and operands
that meet them, clause by clause. Expected values are the spec's. -/

set_option maxRecDepth 8000

namespace Sys2Proof.Machine.Tests

/-! ### Well-formedness: one ill-formed term for each check -/

theorem test_wf_field_too_wide : Written.wellFormed { mnemonic := .HDR_PACK, fields := [8, 0, 0] } = false := by decide
theorem test_wf_too_few_fields : Written.wellFormed { mnemonic := .TX_SEND, fields := [3, 3, 1] } = false := by decide
theorem test_wf_too_many_fields : Written.wellFormed { mnemonic := .NOP, fields := [0] } = false := by decide
theorem test_wf_good : Written.wellFormed { mnemonic := .TX_SEND, fields := [7, 7, 3, 15] } = true := by decide

/-- R70 with 8 slots: chains 0..15, so only smaller blocks can see a chain out of range. -/
theorem test_range_chain :
    let p : Params := { nslot := 3, nchunk := 4, evqDepth := 2, base := 0 }
    ([.bufInit 6 0, .bufWrite 6 0, .bufRead 6 0, .bufClear 6, .bufIsfull 6, .bufAvail 6, .bufSize 6, .bufMove 6 0,
      .bufMove 0 6, .bufMove 2 2, .slotSet 3 1 .dgram 0, .slotSet 0 0 .dgram 0, .slotSet 0 6 .dgram 0, .slotFree 3,
      .slotGet 3, .txSend .single 0 0 8] : List Instr).all (fun i => !i.inRange p) = true := by decide

theorem test_range_good :
    let p : Params := { nslot := 3, nchunk := 4, evqDepth := 2, base := 0 }
    ([.bufInit 5 0, .bufMove 5 0, .slotSet 2 1 .dgram 0, .slotSet 0 5 .dgram 0, .txSend .single 0 0 7] :
      List Instr).all (fun i => i.inRange p) = true := by decide

/-! ### Decoding: words written out from R61 to R68 -/

/-- Format F0: opcode, then 24 zero bits. -/
theorem test_decode_f0 :
    decode 0x00000000 = .command .nop ∧ decode 0x03000000 = .command .idPack ∧
    decode 0x04000000 = .command .idUnpack ∧ decode 0x05000000 = .command .idMatch ∧
    decode 0x08000000 = .command .crcInit ∧ decode 0x30000000 = .command .ifUp ∧
    decode 0x31000000 = .command .ifDown ∧ decode 0x32000000 = .command .cntClear ∧
    decode 0x3C000000 = .command .evPop := by decide

/-- Format FH: opcode, TYPE, PORT, SEQ, twelve zeros, LEN. -/
theorem test_decode_fh :
    decode 0b00000001_010_101_11_000000000000_0000 = .command (.hdrPack .last 5 3) ∧
    decode 0b00111000_111_001_10_000000000000_1101 = .command (.txSend .ack 1 2 13) := by decide

/-- Format FI: opcode, eight zeros, IMM16. -/
theorem test_decode_fi :
    decode 0b00000010_00000000_00000000_10110001 = .command (.hdrUnpack 0xB1) ∧
    decode 0b00001001_00000000_10000000_00000001 = .command (.crcUpdate 0x8001) := by decide

/-- Format FB: opcode, CH, CH2, IMM16. -/
theorem test_decode_fb :
    decode 0b00010000_1010_0000_1000000000000001 = .command (.bufInit 10 0x8001) ∧
    decode 0b00010001_0101_0000_0000000100000000 = .command (.bufWrite 5 256) ∧
    decode 0b00010010_1111_0000_0000000000010100 = .command (.bufRead 15 20) ∧
    decode 0b00010011_0011_0101_0000000000000000 = .command (.bufMove 3 5) ∧
    decode 0b00010100_0001_0000_0000000000000000 = .command (.bufClear 1) ∧
    decode 0b00010101_0010_0000_0000000000000000 = .command (.bufIsfull 2) ∧
    decode 0b00010110_0100_0000_0000000000000000 = .command (.bufAvail 4) ∧
    decode 0b00010111_1000_0000_0000000000000000 = .command (.bufSize 8) := by decide

/-- Format FS: opcode, SLOT, 0, ROLE, seven zeros, PROTO, five zeros, PORT. -/
theorem test_decode_fs :
    decode 0b00100000_0110_0_100_0000000_1_00000_011 = .command (.slotSet 6 4 .stream 3) ∧
    decode 0b00100001_0111_0_000_0000000_0_00000_000 = .command (.slotFree 7) ∧
    decode 0b00100010_0001_0_000_0000000_0_00000_000 = .command (.slotGet 1) := by decide

/-- R67 (2): one must-be-zero bit of each row that has some beyond the format's. -/
theorem test_decode_reserved_bits :
    decode 0x01000001 = .nonzeroReservedBits .HDR_PACK ∧ decode 0x02000100 = .nonzeroReservedBits .HDR_UNPACK ∧
    decode 0x10010000 = .nonzeroReservedBits .BUF_INIT ∧ decode 0x13000001 = .nonzeroReservedBits .BUF_MOVE ∧
    decode 0x14010000 = .nonzeroReservedBits .BUF_CLEAR ∧ decode 0x20080000 = .nonzeroReservedBits .SLOT_SET ∧
    decode 0x21000001 = .nonzeroReservedBits .SLOT_FREE ∧ decode 0x38000010 = .nonzeroReservedBits .TX_SEND := by
  decide

/-- The ends of each reserved range of R69. -/
theorem test_decode_reserved_opcodes :
    [0x06, 0x07, 0x0A, 0x0F, 0x18, 0x1F, 0x23, 0x2F, 0x33, 0x37, 0x39, 0x3B, 0x3D, 0xFF].all
      (fun n => decide (decode (BitVec.ofNat 32 (n * 2 ^ 24)) = .reservedOpcode (BitVec.ofNat 8 n))) = true := by
  decide

/-! ### States for the tests -/

/-- What holds of the state a step or command answers; false where it stops. -/
def after (r : Result) (p : State → Bool) : Bool :=
  match r with
  | .next t => p t
  | .fault _ => false
  | .refused _ => false

/-- A block of 2 slots, 3 chunks and 2 event entries at 0x200. -/
def small : Params := { nslot := 2, nchunk := 3, evqDepth := 2, base := 0x200 }

/-- Slot 0 CONNECTED (STREAM) to node 2 on port 3, slot 1 LISTEN on port 3 (R124's and R141's examples). -/
def slotA : Slot := { Slot.reset with role := .connected, proto := .stream, port := 3, remote := 2 }
def slotB : Slot := { Slot.reset with role := .listen, proto := .stream, port := 3 }

def bytes (n : Nat) : List Byte := (List.range n).map (BitVec.ofNat 8)

def chainOf (cap n : Nat) : Chain :=
  { maxcap := BitVec.ofNat 16 cap, chunks := if n = 0 then [] else [{ data := bytes n, seek := 0 }] }

/-- Node 1, up, with slots A and B and chains of 64 bytes: slot 0's assembly and ready chain, then slot 1's. -/
def net : State :=
  { State.powerOn small with
    run := true, ownaddr := 1, slots := [slotA, slotB]
    chains := [chainOf 64 0, chainOf 64 0, chainOf 64 0, chainOf 64 0] }

/-- `net` while slot 0 assembles a 20-byte transfer of sequence 3 from node 2, three bytes in (R138's example). -/
def busy : State :=
  { net with
    slots := [{ slotA with asmActive := true, asmSeq := 3, asmSrc := 2, asmSize := 20, asmCrcExp := 0x5A74,
                           asmCrc := crc16 (bytes 3) }, slotB]
    chains := [chainOf 64 3, chainOf 64 0, chainOf 64 0, chainOf 64 0] }

def ev1 : Event := { kind := .xferOk, slot := 0, port := 3, seq := 1, src := 2, value := 3, flags := 0 }

/-- A frame from node 2 to node 1 (ID 0x00004002) with these data bytes. -/
def frame (d : List Byte) : Frame :=
  { id := 0x00004002, ide := true, rtr := false, dlc := BitVec.ofNat 4 d.length, data := d }

/-- XBUF with these bytes written from byte `off` on. -/
def xmem (off : Nat) (b : List Byte) : Memory := (List.range b.length).map (fun k => (off + k, b.getD k 0))

/-- The fields of the invariant in three groups that can be decided. -/
abbrev TableOk (s : State) : Prop :=
  Shaped s ∧ PortsUnique s ∧
    ∀ i < s.params.nslot, ∀ j < s.params.nslot,
      (isPeered (slotAt s i).role && isPeered (slotAt s j).role &&
        decide ((slotAt s i).port = (slotAt s j).port) &&
        decide ((slotAt s i).remote = (slotAt s j).remote)) = true → i = j

abbrev PartsOk (s : State) : Prop :=
  s.params.Legal ∧ (∀ x ∈ s.slots, SlotOk x) ∧ (∀ x ∈ s.chains, ChainOk x) ∧ usedChunks s ≤ s.params.nchunk ∧
    evCount s ≤ s.params.evqDepth

abbrev RestOk (s : State) : Prop :=
  (∀ e ∈ s.events, e.slot.toNat < s.params.nslot) ∧ EventRegsOk s ∧ Memory.wf s.xbuf = true ∧
    (s.run = true → s.ownaddr ≠ addrAny ∧ s.ownaddr ≠ addrBcast) ∧ (∀ f ∈ s.rxin, Frame.wf f = true) ∧
    ∀ f ∈ s.txout, TxFrameOk f

theorem invariant_of {s : State} (ht : TableOk s) (hp : PartsOk s) (hr : RestOk s) : Invariant s := by
  obtain ⟨h2, h3, h4⟩ := ht
  obtain ⟨h1, h5, h6, h7, h8⟩ := hp
  obtain ⟨h9, h10, h11, h12, h13, h14⟩ := hr
  exact ⟨h1, h2, h3, fun i hi j hj a b c d => h4 i hi j hj (by simp [a, b, c, d]), h5, h6, h7, h8, h9, h10, h11, h12,
    h13, h14⟩

theorem net_invariant : Invariant net := invariant_of (by decide) (by decide) (by decide)
theorem busy_invariant : Invariant busy := invariant_of (by decide) (by decide) (by decide)

/-! ### The commands, on the examples and corner cases of their rules -/

/-- R89, R90: `HDR_PACK FIRST, 3, 0` and `HDR_UNPACK 0xEF`. -/
theorem test_hdr_pack : after (exec (.hdrPack .first 3 0) net) (fun t => t.res0 == 0x0000000C) = true := by decide
theorem test_hdr_unpack : after (exec (.hdrUnpack 0xEF) net) (fun t => t.res0 == 0x00030307) = true := by decide

/-- R91: addresses 1 and 2; bits above 13 are ignored. -/
theorem test_id_pack :
    after (exec .idPack { net with arg0 := 1, arg1 := 0xFFFFC002 }) (fun t => t.res0 == 0x00004002) = true := by decide

/-- R92: an identifier with RSV set. -/
theorem test_id_unpack :
    after (exec .idUnpack { net with arg0 := 0x1FFFC002 }) (fun t => t.res0 == 0x3FFF && t.res1 == 0x00010002) = true := by
  decide

/-- R93. -/
theorem test_id_match : after (exec .idMatch { net with arg0 := 0x00004002 }) (fun t => t.res0 == 5) = true := by decide

/-- R94's example frame, accepted; and refused. -/
theorem test_tx_send :
    after (exec (.txSend .single 3 1 3)
        { net with ownaddr := 2, arg0 := 1, xbuf := xmem 0 [0x0A, 0x0B, 0x0C], txAnswers := [true] })
      (fun t => decide (t.txout = [frame [0x6D, 0x0A, 0x0B, 0x0C]]) && t.txframes == 1 && t.txbytes == 4) = true := by
  decide

theorem test_tx_send_refused :
    after (exec (.txSend .single 3 1 0) { net with arg0 := 1, txAnswers := [false] })
      (fun t => decide (t.err = .ioerr) && decide (t.txout = []) && t.txframes == 0) = true := by decide

/-- R101, R102: the check value of "123456789". -/
theorem test_crc_init : after (exec .crcInit { net with crcacc := 5 }) (fun t => t.crcacc == 0xFFFF) = true := by decide

theorem test_crc_update :
    after (exec (.crcUpdate 9)
        { net with xbuf := xmem 0 [0x31, 0x32, 0x33, 0x34, 0x35, 0x36, 0x37, 0x38, 0x39] })
      (fun t => t.crcacc == 0x29B1 && t.res0 == 0x29B1) = true := by decide

/-- R113: re-initialising discards the bytes; a locked chain is BUSY. -/
theorem test_buf_init :
    after (exec (.bufInit 3 64) { net with chains := [chainOf 64 0, chainOf 64 0, chainOf 64 0, chainOf 64 9] })
      (fun t => decide (chainAt t 3 = chainOf 64 0) && freeChunks t == 3) = true := by decide

theorem test_buf_init_busy : after (exec (.bufInit 0 64) busy) (fun t => decide (t.err = .busy)) = true := by decide

/-- R114: 20 bytes are one chunk; a write past MAXCAP is FULL. -/
theorem test_buf_write :
    after (exec (.bufWrite 1 20) { net with xbuf := xmem 0 (bytes 20) })
      (fun t => t.res0 == 20 && freeChunks t == 2 && decide (chainBytes t 1 = bytes 20)) = true := by decide

theorem test_buf_write_full : after (exec (.bufWrite 1 65) net) (fun t => decide (t.err = .full)) = true := by decide

/-- R115: a read of more than the chain holds, to ARG0 = 0x20. -/
theorem test_buf_read :
    after (exec (.bufRead 1 32)
        { net with arg0 := 0x20, chains := [chainOf 64 0, chainOf 64 20, chainOf 64 0, chainOf 64 0] })
      (fun t => t.res0 == 20 && t.res1 == 0 && decide (t.xbuf = xmem 0x20 (bytes 20)) && freeChunks t == 3) = true := by
  decide

/-- R105, R109: a chunk is freed when its last written byte is read, not before. -/
theorem test_buf_read_part :
    after (exec (.bufRead 1 5) { net with chains := [chainOf 64 0, chainOf 64 20, chainOf 64 0, chainOf 64 0] })
      (fun t => decide ((chainAt t 1).chunks = [{ data := bytes 20, seek := 5 }]) && t.res1 == 15) = true := by decide

/-- R116: 5 bytes and 7 bytes; chunks are linked, not merged. -/
theorem test_buf_move :
    after (exec (.bufMove 1 3) { net with chains := [chainOf 64 0, chainOf 64 5, chainOf 64 0, chainOf 64 7] })
      (fun t => t.res0 == 12 && decide (chainBytes t 1 = bytes 5 ++ bytes 7) && decide (chainBytes t 3 = []) &&
        freeChunks t == 1) = true := by decide

/-- R117 to R120. -/
theorem test_buf_clear :
    after (exec (.bufClear 1) { net with chains := [chainOf 64 0, chainOf 64 20, chainOf 64 0, chainOf 64 0] })
      (fun t => decide (chainAt t 1 = chainOf 64 0)) = true := by decide

theorem test_buf_isfull : after (exec (.bufIsfull 0) (State.powerOn small)) (fun t => t.res0 == 1) = true := by decide

theorem test_buf_avail :
    after (exec (.bufAvail 1) { net with chains := [chainOf 64 0, chainOf 64 20, chainOf 64 0, chainOf 64 0] })
      (fun t => t.res0 == 44) = true := by decide

/-- R120: allowed on a locked chain. -/
theorem test_buf_size : after (exec (.bufSize 0) busy) (fun t => t.res0 == 3 && decide (t.err = .ok)) = true := by decide

/-- R124: a second listener on a port is PORTBUSY, the slot itself is not. -/
theorem test_slot_set :
    after (exec (.slotSet 1 1 .dgram 3) busy)
      (fun t => decide (slotAt t 1 = { slotB with role := .bound, proto := .dgram })) = true := by decide

theorem test_slot_set_conflict :
    after (exec (.slotSet 0 1 .dgram 3) busy) (fun t => decide (t.err = .portbusy) && decide (t.slots = busy.slots)) =
      true := by decide

/-- R125: freeing a slot in assembly. -/
theorem test_slot_free :
    after (exec (.slotFree 0) busy)
      (fun t => decide ((slotAt t 0).role = .free) && decide (chainAt t 0 = chainOf 64 0) && freeChunks t == 3) = true := by
  decide

/-- R126: R124's example slot after reset of its assembly fields. -/
theorem test_slot_get :
    after (exec (.slotGet 0) net) (fun t => t.res0 == 0x0000803C && t.res1 == 0xFFFF0000) = true := by decide

/-- R156 to R159. -/
theorem test_nop : after (exec .nop { net with err := .full }) (fun t => decide (t.err = .ok)) = true := by decide

theorem test_if_up :
    after (exec .ifUp { State.reset with arg0 := 1 }) (fun t => readWindow 0x014 t == 0x00010010) = true := by decide

theorem test_if_down : after (exec .ifDown net) (fun t => !t.run && t.ownaddr == 1) = true := by decide

theorem test_cnt_clear :
    after (exec .cntClear { net with rxframes := 1, rxbytes := 2, txframes := 3, txbytes := 4, rxdrop := 5 })
      (fun t => [t.rxframes, t.rxbytes, t.txframes, t.txbytes, t.rxdrop] == [0, 0, 0, 0, 0]) = true := by decide

/-- R151's example event; an empty FIFO shows KIND = NONE. -/
theorem test_ev_pop :
    after (exec .evPop { net with events := [ev1] })
      (fun t => t.ev0 == 0x00020B01 && t.ev1 == 0x00000003 && decide (t.events = [])) = true := by decide

theorem test_ev_pop_empty :
    after (exec .evPop { net with ev0 := 7, ev1 := 7 }) (fun t => t.ev0 == 0 && t.ev1 == 0 && decide (t.err = .ok)) =
      true := by decide

/-! ### The dispatcher, on the handlers' examples (R137 to R145) -/

/-- R137's example. -/
theorem test_single :
    let t := receive (frame [0x6D, 0x0A, 0x0B, 0x0C]) net
    chainBytes t 1 = [0x0A, 0x0B, 0x0C] ∧ t.events = [ev1] ∧ (slotAt t 0).rxSeq = 1 ∧ t.rxbytes = 4 := by decide

/-- R138's example. -/
theorem test_first :
    let t := receive (frame [0x0C, 0x14, 0x00, 0x74, 0x5A, 0x00, 0x01, 0x02]) net
    slotAt t 0 = { slotA with asmActive := true, asmSeq := 0, asmSrc := 2, asmSize := 20, asmCrcExp := 0x5A74,
                              asmCrc := crc16 (bytes 3) } ∧ chainBytes t 0 = bytes 3 ∧ t.events = [] := by decide

/-- R139: the current sequence is appended, a stale one dropped. -/
theorem test_next :
    chainBytes (receive (frame [0x2F, 3, 4, 5, 6, 7, 8, 9]) busy) 0 = bytes 10 ∧
    receive (frame [0x2C, 3, 4, 5, 6, 7, 8, 9]) busy = drop busy := by decide

/-- R140, R136: a last frame whose total size is short, on a STREAM slot. -/
theorem test_last_size_mismatch :
    let t := receive (frame [0x4F, 3]) busy
    t.events = [{ kind := .xferFail, slot := 0, port := 3, seq := 3, src := 2, value := 20, flags := 1 }] ∧
    chainBytes t 0 = [] ∧ (slotAt t 0).asmActive = false := by decide

/-- R141's example: a request to the listener. -/
theorem test_connect :
    (receive (frame [0x8C, 0x00]) net).events =
      [{ kind := .connectReq, slot := 1, port := 3, seq := 0, src := 2, value := 0, flags := 0 }] := by decide

/-- R143's example. -/
theorem test_disconnect : (slotAt (receive (frame [0xAC]) busy) 0).role = .closed := by decide

/-- R144's example. -/
theorem test_stat :
    (receive (frame [0xCC, 0x02, 0x2C, 0x00]) net).events =
      [{ kind := .statResp, slot := 0, port := 3, seq := 0, src := 2, value := 44, flags := 2 }] := by decide

/-- R145's example. -/
theorem test_ack :
    (receive (frame [0xEC, 0x01]) net).events =
      [{ kind := .ack, slot := 0, port := 3, seq := 0, src := 2, value := 0, flags := 1 }] := by decide

/-- R129 to R131, R133: dropped frames count and change nothing else. -/
theorem test_drops :
    receive { frame [0x6D] with rtr := true } net = drop net ∧
    receive { frame [0x6D] with id := 0x00008002 } net = drop net ∧
    receive (frame [0x0C, 1, 0, 0]) net = drop net ∧ receive (frame [0x8C, 0x02]) net = drop net := by decide

/-! ### The host's side -/

/-- A step runs the command in LASTCMD's word and takes the turn (R19). -/
theorem test_step_command :
    after (step ({ net with err := .busy }.withFetchWord 32 0x31000000))
      (fun t => !t.run && t.lastcmd == 0x31000000 && decide (t.err = .ok) && decide (t.agenda = [])) = true := by decide

theorem test_step_badcmd :
    after (step (net.withFetchWord 32 0x06000000)) (fun t => decide (t = { net with lastcmd := 0x06000000, err := .badcmd })) =
      true := by decide

/-- R47, R168: a halfword access of the window. -/
theorem test_bus_error : after (step { net with agenda := [.read 2 0x200] }) (fun _ => true) = false := by decide

/-- R29: low byte first. -/
theorem test_xbuf_window :
    after (step { net with agenda := [.write 4 0x304 0x44332211] })
      (fun t => decide (t.xbuf = xmem 4 [0x11, 0x22, 0x33, 0x44]) && readWindow 0x104 t == 0x44332211) = true := by decide

/-- R27, R26 with the defaults of R6. -/
theorem test_cfg : readWindow 0x03C State.reset = 0x00401008 ∧ readWindow 0x038 State.reset = 64 := by decide

/-- R72's `xb` and `rx` on R88's two frames of eight bytes. -/
theorem test_host_notation :
    xb small 0 [1, 2, 3, 4, 5] = [.write 4 0x300 0x04030201, .write 4 0x304 0x00000005] ∧
    transferFrames 1 2 3 0 (bytes 8) =
      [frame ([0x0C, 8, 0] ++ [(crc16 (bytes 8)).extractLsb' 0 8, (crc16 (bytes 8)).extractLsb' 8 8] ++ [0, 1, 2]),
       frame [0x4C, 3, 4, 5, 6, 7]] := by decide

/-! ### Witnesses: a state and operands that meet each obligation's hypotheses, clause by clause -/

/-- The state whose next turn is `tn`. -/
def turn (tn : Turn) : State := { net with agenda := [tn] }

/-- `net` with this content in the four chains (R35). -/
def chains (a b c d : Nat) : State := { net with chains := [chainOf 64 a, chainOf 64 b, chainOf 64 c, chainOf 64 d] }

/-- EncodeDecode. -/
theorem witness_EncodeDecode : decode 0x020000FF = .command (.hdrUnpack 0xFF) := by decide

/-- CommandWrite: a legal block; a reserved opcode at each end of R69's ranges is tried above; a defined opcode with and
without a must-be-zero bit. -/
theorem witness_CommandWrite :
    net.params.Legal ∧ (opcode .HDR_PACK).toNat = 0x01000001 / 2 ^ 24 ∧
    (0x01000001 : Word) &&& rowMask .HDR_PACK ≠ rowMatch .HDR_PACK ∧
    (0x010C0000 : Word) &&& rowMask .HDR_PACK = rowMatch .HDR_PACK ∧
    ∀ m ∈ [Mnemonic.NOP, .EV_POP, .CRC_UPDATE], (opcode m).toNat ≠ 0x06 ∧ (opcode m).toNat ≠ 0xFF := by decide

theorem witness_StepRunsDecoded :
    net.params.Legal ∧ (turn (.write 4 0x200 0)).agenda = .write 4 (small.base + 0x000) 0 :: [] ∧
    decode 0 = .command .nop ∧ decodeTableWord 32 0x38FF000F = some (.txSend .ack 7 3 15) := by decide

/-- BusFaults: a narrow access at the window's first byte, an unaligned one at its last; a step that faults; ignored
writes at 0x00C and 0x0FC. -/
theorem witness_BusFaults :
    (∃ s : State, s.agenda = .read 2 0x200 :: [] ∧ s.params.base ≤ 0x200 ∧ 0x200 < s.params.base + 0x200 ∧
      ¬(2 = 4 ∧ 0x200 % 4 = 0)) ∧
    (∃ s : State, s.agenda = .write 4 0x3FF 0 :: [] ∧ s.params.base ≤ 0x3FF ∧ 0x3FF < s.params.base + 0x200 ∧
      ¬(4 = 4 ∧ 0x3FF % 4 = 0)) ∧
    (∃ s : State, step s = .fault .busError) ∧
    (∀ off ∈ [0x00C, 0x0FC], ∃ s : State, s.params.Legal ∧ off < 0x100 ∧ off % 4 = 0 ∧ off ≠ 0x000 ∧ off ≠ 0x004 ∧
      off ≠ 0x008 ∧ off ≠ 0x040 ∧ s.agenda = .write 4 (s.params.base + off) 7 :: []) := by
  refine ⟨⟨turn (.read 2 0x200), by decide⟩, ⟨turn (.write 4 0x3FF 0), by decide⟩, ⟨turn (.read 2 0x200), rfl⟩, ?_⟩
  intro off h
  refine ⟨turn (.write 4 (0x200 + off) 7), ?_⟩
  simp only [List.mem_cons, List.not_mem_nil, or_false] at h
  rcases h with rfl | rfl <;> decide

/-- OutsideWindow: the word before the window, the word after it, and one across its start. -/
theorem witness_OutsideWindow :
    (turn (.read 4 0x1FC)).agenda = [.read 4 0x1FC] ∧ 0x1FC + 4 ≤ small.base ∧
    (turn (.write 4 0x400 0)).agenda = [.write 4 0x400 0] ∧ small.base + 0x200 ≤ 0x400 ∧
    (turn (.read 4 0x1FE)).agenda = [.read 4 0x1FE] ∧ 0x1FE < small.base ∧ small.base < 0x1FE + 4 := by decide

/-- RegisterReads and XbufWindow: the first and last word of each region, and a second read. -/
theorem witness_RegisterReads :
    ∀ off ∈ [0x000, 0x014, 0x034, 0x038, 0x03C, 0x040, 0x044, 0x0FC, 0x100, 0x1FC], ∃ s : State, s.params.Legal ∧ off < 0x200 ∧ off % 4 = 0 ∧
      s.agenda = .read 4 (s.params.base + off) :: .read 4 (s.params.base + off) :: [] := by
  intro off h
  refine ⟨{ net with agenda := [.read 4 (0x200 + off), .read 4 (0x200 + off)] }, ?_⟩
  simp only [List.mem_cons, List.not_mem_nil, or_false] at h
  rcases h with rfl | rfl | rfl | rfl | rfl | rfl | rfl | rfl | rfl | rfl <;> decide

theorem witness_XbufWindow :
    ∀ j ∈ [0, 63], ∃ s t : State, s.params.Legal ∧ j < 64 ∧ s.agenda = .write 4 (s.params.base + 0x100 + 4 * j) 1 :: [] ∧
      t.params.Legal ∧ t.agenda = .read 4 (t.params.base + 0x100 + 4 * j) :: [] := by
  intro j h
  refine ⟨turn (.write 4 (0x300 + 4 * j) 1), turn (.read 4 (0x300 + 4 * j)), ?_⟩
  simp only [List.mem_cons, List.not_mem_nil, or_false] at h
  rcases h with rfl | rfl <;> decide

/-- ArgumentWrites, IrqenAndIrq: the three writes; one pending event popped; IF_UP with an RX error and no event. -/
theorem witness_ArgumentWrites :
    net.params.Legal ∧ (turn (.write 4 0x204 5)).agenda = .write 4 (small.base + 0x004) 5 :: [] ∧
    (turn (.write 4 0x208 5)).agenda = .write 4 (small.base + 0x008) 5 :: [] := by decide

theorem witness_IrqenAndIrq :
    (turn (.write 4 0x240 3)).agenda = .write 4 (small.base + 0x040) 3 :: [] ∧
    (∃ t, writeWindow 0x040 3 net = .next t) ∧
    (∃ s t : State, s.events.length = 1 ∧ s.rxerr = false ∧ exec .evPop s = .next t) ∧
    (∃ s t : State, s.events = [] ∧ s.rxerr = true ∧ exec .ifUp s = .next t ∧ t.err = .ok) :=
  ⟨rfl, ⟨_, rfl⟩, ⟨{ net with events := [ev1] }, _, rfl, rfl, rfl⟩,
    ⟨{ net with rxerr := true, arg0 := 1 }, _, rfl, rfl, rfl, rfl⟩⟩

/-- StatusRead, FreechunksAndCfg, ReservedBits: states that meet the invariant, the event FIFO empty and full. -/
theorem witness_StatusRead :
    Invariant net ∧ Invariant { net with events := [ev1, ev1] } ∧ small.evqDepth = 2 ∧ Invariant State.reset :=
  ⟨net_invariant, invariant_of (by decide) (by decide) (by decide), rfl,
    invariant_of (by decide) (by decide) (by decide)⟩

theorem witness_ReservedBits : (0xFFFFFFFE : Word).toNat % 4 = (2 : Word).toNat % 4 := by decide

/-- HeaderCommands and IdCommands: the round trips' two commands each answer a next state. -/
theorem witness_HeaderCommands :
    ∃ t u : State, exec (.hdrPack .ack 7 3) net = .next t ∧ exec (.hdrUnpack (t.res0.setWidth 8)) t = .next u :=
  ⟨_, _, rfl, rfl⟩

theorem witness_IdCommands :
    ∃ t u : State, exec .idPack { net with arg0 := 0x3FFF, arg1 := 1 } = .next t ∧
      exec .idUnpack { t with arg0 := t.res0 } = .next u := ⟨_, _, rfl, rfl⟩

/-- TxSend: LEN 8 and ARG0 0x4000 are out of range, 7 and 0x3FFF are not; down; refused; accepted. -/
theorem witness_TxSend :
    7 < (8 : BitVec 4).toNat ∧ 0x3FFF < (0x4000 : Word).toNat ∧ (7 : BitVec 4).toNat ≤ 7 ∧
    (0x3FFF : Word).toNat ≤ 0x3FFF ∧ State.reset.run = false ∧ net.run = true ∧
    txAnswer { net with txAnswers := [false] } = false ∧ txAnswer { net with txAnswers := [true] } = true := by decide

/-- OnlyTxSendTransmits, ReservedIdBit: a step that sends a frame. -/
theorem witness_OnlyTxSendTransmits :
    after (step ({ net with arg0 := 1, txAnswers := [true] }.withFetchWord 32 0x386D0000))
      (fun t => decide (t.txout ≠ []) && decide (t.txout = [] ++ t.txout)) = true := by decide

/-- CrcCommands, CrcComposes: a range one past XBUF, one up to its last byte, and one split in two. -/
theorem witness_CrcCommands :
    256 < (0xFF : Word).toNat + (2 : Half).toNat ∧ (0xFF : Word).toNat + (1 : Half).toNat ≤ 256 ∧
    (100 : Word).toNat + 100 + 56 ≤ 256 ∧
    ∃ t u : State, exec (.crcUpdate 1) { net with arg0 := 0xFE } = .next t ∧
      exec (.crcUpdate 1) { t with arg0 := 0xFF } = .next u := ⟨by decide, by decide, by decide, _, _, rfl, rfl⟩

/-- ChainWrite: on the last chain; FULL, NOMEM (3 chunks, 97 bytes) and accepted; 20 bytes after a chunk of 22 fill it
and begin one new chunk. -/
theorem witness_ChainWrite :
    let s : State := { net with chains := [chainOf 64 0, chainOf 64 0, chainOf 64 0, chainOf 200 0] }
    Invariant s ∧ 3 < 2 * s.params.nslot ∧ chainWrite 3 (bytes 201) s = .full ∧ chainWrite 3 (bytes 97) s = .nomem ∧
    (∃ t, chainWrite 3 (bytes 96) s = .ok t) ∧ Invariant (chains 0 0 0 22) ∧
    ∃ t, chainWrite 3 (bytes 20) (chains 0 0 0 22) = .ok t ∧
      (chainAt t 3).chunks.map (fun k => k.data.length) = [32, 10] :=
  ⟨invariant_of (by decide) (by decide) (by decide), by decide, rfl, rfl, ⟨_, rfl⟩,
    invariant_of (by decide) (by decide) (by decide), _, rfl, by decide⟩

/-- BufInitAndClear, BufQueries: chain 4 of 4, a locked chain, and the last chain. -/
theorem witness_BufInitAndClear :
    2 * net.params.nslot ≤ (4 : BitVec 4).toNat ∧
    ((0 : BitVec 4).toNat < 2 * busy.params.nslot ∧ (0 : BitVec 4).toNat % 2 = 0 ∧
      (slotAt busy ((0 : BitVec 4).toNat / 2)).asmActive = true) ∧
    ((3 : BitVec 4).toNat < 2 * net.params.nslot ∧
      ¬((3 : BitVec 4).toNat % 2 = 0 ∧ (slotAt net ((3 : BitVec 4).toNat / 2)).asmActive = true)) := by decide

/-- BufWrite and BufRead: chain out of range, XBUF range one too long, locked, FULL, NOMEM, accepted at byte 255. -/
theorem witness_BufWrite :
    let s : State := { net with arg0 := 0xFF }
    (2 * net.params.nslot ≤ (4 : BitVec 4).toNat ∧ 256 < (0xFF : Word).toNat + (2 : Half).toNat) ∧
    ((slotAt busy ((0 : BitVec 4).toNat / 2)).asmActive = true ∧ (0 : Word).toNat + (256 : Half).toNat ≤ 256) ∧
    (Invariant net ∧ (slotAt net 0).asmActive = false ∧ (chainAt net 1).maxcap.toNat < totalSize net 1 + 65) ∧
    (Invariant (chains 32 32 32 0) ∧ ¬(chainAt (chains 32 32 32 0) 3).maxcap.toNat < totalSize (chains 32 32 32 0) 3 + 1 ∧
      freeChunks (chains 32 32 32 0) < need (chainAt (chains 32 32 32 0) 3).chunks 1) ∧
    (s.arg0.toNat + (1 : Half).toNat ≤ 256 ∧ ¬(chainAt net 3).maxcap.toNat < totalSize net 3 + 64 ∧
      need (chainAt net 3).chunks 64 ≤ freeChunks net) :=
  ⟨by decide, by decide, ⟨net_invariant, by decide⟩,
    ⟨invariant_of (by decide) (by decide) (by decide), by decide⟩, by decide⟩

/-- BufRead: 32 bytes of a chunk of 32 and one of 8 leave the second chunk and give the first back to the pool. -/
theorem witness_BufRead :
    let s : State := { net with chains := [chainOf 64 0,
      { maxcap := 64, chunks := [{ data := bytes 32, seek := 0 }, { data := bytes 8, seek := 0 }] }, chainOf 64 0,
      chainOf 64 0] }
    Invariant s ∧ ∃ t, exec (.bufRead 1 32) s = .next t ∧
      (chainAt t 1).chunks = [{ data := bytes 8, seek := 0 }] ∧ freeChunks s = 1 ∧ freeChunks t = 2 :=
  ⟨invariant_of (by decide) (by decide) (by decide), _, rfl, by decide⟩

/-- BufMove: one chain twice, a locked source, a full destination, and a move that just fits. -/
theorem witness_BufMove :
    ((1 : BitVec 4).toNat = (1 : BitVec 4).toNat ∧ 2 * net.params.nslot ≤ (4 : BitVec 4).toNat) ∧
    (0 % 2 = 0 ∧ (slotAt busy (0 / 2)).asmActive = true ∧ Invariant busy) ∧
    (Invariant (chains 0 32 0 32) ∧ ¬(totalSize (chains 0 32 0 32) 3 ≠ 0 ∧
      (chainAt (chains 0 32 0 32) 1).maxcap.toNat < totalSize (chains 0 32 0 32) 1 + totalSize (chains 0 32 0 32) 3)) ∧
    (Invariant { net with chains := [chainOf 64 0, chainOf 33 2, chainOf 64 0, chainOf 64 32] } ∧
      33 < 2 + 32) :=
  ⟨by decide, ⟨rfl, rfl, busy_invariant⟩,
    ⟨invariant_of (by decide) (by decide) (by decide), by decide⟩,
    ⟨invariant_of (by decide) (by decide) (by decide), by decide⟩⟩

/-- WriteThenRead: 20 bytes through an empty chain, read to XBUF's end. -/
theorem witness_WriteThenRead :
    let s : State := { net with xbuf := xmem 0 (bytes 20) }
    Invariant s ∧ (chainAt s 1).chunks = [] ∧ (236 : Word).toNat + (20 : Half).toNat ≤ 256 ∧
    ∃ t u : State, exec (.bufWrite 1 20) s = .next t ∧ t.err = .ok ∧
      exec (.bufRead 1 20) { t with arg0 := 236 } = .next u :=
  ⟨invariant_of (by decide) (by decide) (by decide), by decide, by decide, _, _, rfl, rfl, rfl⟩

/-- SlotSet: each BADARG cause at its boundary; a clash of listeners and one of peers; a registration. -/
theorem witness_SlotSet :
    Invariant net ∧ net.params.nslot ≤ (2 : BitVec 4).toNat ∧ (0 : BitVec 3).toNat = 0 ∧ 5 < (6 : BitVec 3).toNat ∧
    0x3FFF < (0x4000 : Word).toNat ∧ (3 : BitVec 3).toNat = 3 ∧ (0x3FFF : Word).toNat = 0x3FFF ∧
    ((slotAt net 1).port = (3 : Port) ∧ (roleCode (slotAt net 1).role).toNat = 2) ∧
    ((slotAt net 0).port = (3 : Port) ∧ (roleCode (slotAt net 0).role).toNat = 4 ∧
      (slotAt net 0).remote.toNat = (2 : Word).toNat) ∧
    conflict net 0 .bound 3 0 = true ∧ conflict net 1 .connecting 3 2 = true ∧ conflict net 1 .connecting 3 1 = false :=
  ⟨net_invariant, by decide⟩

/-- SlotFree, SlotGet: slot 2 of 2, and slot 1. -/
theorem witness_SlotFree :
    Invariant busy ∧ busy.params.nslot ≤ (2 : BitVec 4).toNat ∧ (1 : BitVec 4).toNat < busy.params.nslot :=
  ⟨busy_invariant, by decide⟩

/-- InterfaceCommands: the own addresses refused and the first and last allowed. -/
theorem witness_InterfaceCommands :
    (0 : Word).toNat = 0 ∧ 0x3FFF ≤ (0x3FFF : Word).toNat ∧ ((1 : Word).toNat ≠ 0 ∧ (1 : Word).toNat < 0x3FFF) ∧
    ((0x3FFE : Word).toNat ≠ 0 ∧ (0x3FFE : Word).toNat < 0x3FFF) := by decide

theorem witness_EvPop : net.events = [] ∧ { net with events := [ev1] }.events = ev1 :: [] := by decide

/-- FailureChangesNothing, PossibleCodes, CommandFrame: a command that fails, and a BUF_READ that does not. -/
theorem witness_FailureChangesNothing :
    (∃ t, exec (.bufInit 0 64) busy = .next t ∧ t.err ≠ .ok) ∧ (∃ t, exec (.bufRead 1 0) net = .next t ∧ t.err = .ok) ∧
    ∃ t, exec (.txSend .single 0 0 0) { net with txAnswers := [false] } = .next t ∧ t.err = .ioerr :=
  ⟨⟨_, rfl, by decide⟩, ⟨_, rfl, rfl⟩, _, rfl, rfl⟩

/-- WhoWrites: for each clause a step that changes what it names. -/
theorem witness_WhoWrites :
    let s : State := { net with rxerr := true, arg0 := 5, events := [ev1] }
    after (step (s.withFetchWord 32 0x30000000)) (fun t => t.ownaddr != s.ownaddr && t.rxerr != s.rxerr) = true ∧
    after (step (s.withFetchWord 32 0x31000000)) (fun t => t.run != s.run && t.lastcmd != s.lastcmd) = true ∧
    after (step { s with crcacc := 0, agenda := [.write 4 0x200 0x08000000] }) (fun t => t.crcacc != 0) = true ∧
    after (step (s.withFetchWord 32 0x3C000000)) (fun t => t.ev0 != s.ev0) = true ∧
    after (step (s.withFetchWord 32 0x10100001)) (fun t => (chainAt t 1).maxcap != (chainAt s 1).maxcap) = true ∧
    after (step (s.withFetchWord 32 0x21000000)) (fun t => (slotAt t 0).port != (slotAt s 0).port) = true ∧
    after (step { s with agenda := [.write 4 0x204 9] }) (fun t => t.arg0 != s.arg0) = true ∧
    after (step { s with agenda := [.write 4 0x208 9] }) (fun t => t.arg1 != s.arg1) = true ∧
    ∀ ts, s.agenda ≠ .blockReset :: ts := by
  refine ⟨by decide, by decide, by decide, by decide, by decide, by decide, by decide, by decide, ?_⟩
  intro ts h
  cases h

/-- DispatcherFrame: a frame at the head of RXIN for slot 0, one for slot 1, and one for no slot. -/
theorem witness_DispatcherFrame :
    routeData net (frame [0x6D]) = some 0 ∧ findPort net .listen (framePort (frame [0x8C])) = some 1 ∧
    routeData net (frame [0x61]) = none ∧ net.rxin = [] ∧
    { net with rxin := [frame [0x6D]] }.rxin = frame [0x6D] :: [] := by decide

/-- EnvironmentSteps, DispatcherFrame, ResetValues: the environment's turns and the reset input. -/
theorem witness_EnvironmentSteps :
    (turn .rxError).run = true ∧ (turn .rxError).agenda = .rxError :: [] ∧ (turn .blockReset).agenda = .blockReset :: [] ∧
    ((frame (bytes 8)).data.length = min (frame (bytes 8)).dlc.toNat 8 ∧
      (turn (.rxFrame (frame (bytes 8)))).agenda = .rxFrame (frame (bytes 8)) :: []) ∧
    ({ frame (bytes 8) with dlc := 15 }.data.length = min (15 : BitVec 4).toNat 8) ∧ State.reset.run = false ∧
    ∃ t, step (turn .rxError) = .next t := ⟨rfl, rfl, rfl, by decide, by decide, rfl, _, rfl⟩

/-- DispatcherEnabling: scheduled, alone, held by a full FIFO, and enabled with one entry free. -/
theorem witness_DispatcherEnabling :
    (turn .dispatcher).agenda = .dispatcher :: [] ∧ net.agenda = [] ∧
    ¬({ net with events := [ev1, ev1], rxin := [frame [0x6D]] }.events.length < net.params.evqDepth) ∧
    (net.run = true ∧ { net with events := [ev1], rxin := [frame [0x6D]] }.rxin = frame [0x6D] :: [] ∧
      { net with events := [ev1] }.events.length < net.params.evqDepth) := by decide

/-- FramesDropped: each cause, at its boundary length. -/
theorem witness_FramesDropped :
    { frame [] with ide := false }.ide = false ∧ { frame [] with rtr := true }.rtr = true ∧ (frame []).dlc.toNat = 0 ∧
    8 < { frame (bytes 8) with dlc := 9 }.dlc.toNat ∧
    (0x00008002 / 2 ^ 14 % 2 ^ 14 ≠ net.ownaddr.toNat ∧ 0x00008002 / 2 ^ 14 % 2 ^ 14 ≠ 0x3FFF) ∧
    (frameType (frame [0x0C, 1, 0, 0]) = .first ∧ (frame [0x0C, 1, 0, 0]).dlc.toNat < 5) ∧
    (frameType (frame [0xCC, 2, 0]) = .stat ∧ 2 ≤ (frame [0xCC, 2, 0]).dlc.toNat ∧
      (frameByte (frame [0xCC, 2, 0]) 1).toNat / 2 % 2 = 1 ∧ (frame [0xCC, 2, 0]).dlc.toNat < 4) := by decide

theorem no_connected (f : Frame) (h : framePort f ≠ 3) : ∀ i, ¬PeerSlot net f .connected i := by
  rintro i ⟨hi, hr, hp, -⟩
  have hi' : i < 2 := hi
  have : i = 0 ∨ i = 1 := by omega
  rcases this with rfl | rfl
  · exact h (hp.symm.trans (by decide))
  · exact absurd hr (by decide)

/-- RouteData: a slot that takes the frame, and none. -/
theorem witness_RouteData :
    (Invariant net ∧ DataSlot net (frame [0x6D]) 0 ∧ frameType (frame [0x6D]) = .single) ∧
    ∀ i, ¬DataSlot net (frame [0x61]) i := by
  refine ⟨⟨net_invariant, .inl (by decide), by decide⟩, ?_⟩
  rintro i (h | ⟨⟨hi, hr, -⟩, -⟩)
  · exact no_connected _ (by decide) i h
  · have hi' : i < 2 := hi
    have : i = 0 ∨ i = 1 := by omega
    rcases this with rfl | rfl
    · exact absurd hr (by decide)
    · exact absurd hr (by decide)

/-- The first clauses of HandlerFirst, HandlerNextLast and HandlerSingle: a frame of each type with no slot. -/
theorem witness_NoDataSlot :
    ∀ f ∈ [frame [0x01, 0, 0, 0, 0], frame [0x21], frame [0x41], frame [0x61]],
      Invariant net ∧ frameType f ∈ [.first, .next, .last, .single] ∧ ∀ i, ¬DataSlot net f i := by
  have no : ∀ f : Frame, framePort f = 0 → ∀ i, ¬DataSlot net f i := by
    rintro f hf i (⟨hi, -, hp, -⟩ | ⟨⟨hi, hr, -⟩, -⟩)
    all_goals
      have hi' : i < 2 := hi
      have : i = 0 ∨ i = 1 := by omega
    · rw [hf] at hp
      rcases this with rfl | rfl <;> exact absurd hp (by decide)
    · rcases this with rfl | rfl <;> exact absurd hr (by decide)
  intro f h
  simp only [List.mem_cons, List.not_mem_nil, or_false] at h
  rcases h with rfl | rfl | rfl | rfl <;> exact ⟨net_invariant, by decide, no _ (by decide)⟩

/-- HandlerSingle: one that fits exactly, one with no data into chains of capacity 0, and one a byte too long. -/
theorem witness_HandlerSingle :
    let f := frame [0x6D, 1, 2, 3]
    let full : State := { net with chains := [chainOf 64 0, chainOf 34 32, chainOf 64 0, chainOf 64 0] }
    let s : State := { net with chains := [chainOf 3 0, chainOf 3 0, chainOf 64 0, chainOf 64 0] }
    (Invariant s ∧ ForMe s f ∧ f.data.length = f.dlc.toNat ∧ frameType f = .single ∧ DataSlot s f 0 ∧
      (f.data.drop 1).length ≤ (chainAt s 0).maxcap.toNat ∧ 1 ≤ freeChunks s ∧
      totalSize s 1 + (f.data.drop 1).length ≤ (chainAt s 1).maxcap.toNat) ∧
    (Invariant full ∧ ForMe full f ∧ DataSlot full f 0 ∧ ¬totalSize full 1 + (f.data.drop 1).length ≤ (chainAt full 1).maxcap.toNat) ∧
    (ForMe s (frame [0x6D]) ∧ (frame [0x6D]).data.drop 1 = []) :=
  ⟨⟨invariant_of (by decide) (by decide) (by decide), by decide, by decide, by decide, .inl (by decide), by decide⟩,
    ⟨invariant_of (by decide) (by decide) (by decide), by decide, .inl (by decide), by decide⟩, by decide⟩

/-- Append: ASM_ERR set, bytes that fit exactly, and one byte too many. -/
theorem witness_Append :
    let err : State := { busy with slots := [{ slotAt busy 0 with asmErr := true }, slotB] }
    (Invariant err ∧ (slotAt err 0).asmErr = true) ∧
    (Invariant busy ∧ 0 < busy.params.nslot ∧ (slotAt busy 0).asmErr = false ∧
      totalSize busy 0 + (bytes 61).length ≤ (chainAt busy 0).maxcap.toNat ∧
      need (chainAt busy 0).chunks (bytes 61).length ≤ freeChunks busy) ∧
    ¬totalSize busy 0 + (bytes 62).length ≤ (chainAt busy 0).maxcap.toNat :=
  ⟨⟨invariant_of (by decide) (by decide) (by decide), rfl⟩, ⟨busy_invariant, by decide⟩, by decide⟩

/-- Finish: reasons 3, 1, 2, 3 (a full ready chain) and 0. -/
theorem witness_Finish :
    let x : Slot := { slotAt busy 0 with asmSize := 3 }
    let good : State := { busy with slots := [{ x with asmCrcExp := crc16 (bytes 3) }, slotB] }
    Invariant busy ∧ 0 < busy.params.nslot ∧
    ({ slotAt busy 0 with asmErr := true : Slot }.asmErr = true) ∧ totalSize busy 0 ≠ (slotAt busy 0).asmSize.toNat ∧
    (totalSize busy 0 = x.asmSize.toNat ∧ x.asmCrc ≠ x.asmCrcExp) ∧
    (Invariant good ∧ (slotAt good 0).asmErr = false ∧ totalSize good 0 = (slotAt good 0).asmSize.toNat ∧
      (slotAt good 0).asmCrc = (slotAt good 0).asmCrcExp ∧
      ¬(chainAt good 1).maxcap.toNat < totalSize good 1 + totalSize good 0 ∧ (chainOf 2 0).maxcap.toNat < 0 + 3) :=
  ⟨busy_invariant, by decide, by decide, by decide, by decide, invariant_of (by decide) (by decide) (by decide),
    by decide⟩

/-- HandlerFirst: the shortest `first`, and one of eight bytes. -/
theorem witness_HandlerFirst :
    ∀ f ∈ [frame [0x0C, 0, 0, 0xFF, 0xFF], frame [0x0C, 20, 0, 0x74, 0x5A, 0, 1, 2]],
      Invariant net ∧ ForMe net f ∧ f.data.length = f.dlc.toNat ∧ frameType f = .first ∧ 5 ≤ f.dlc.toNat ∧
        DataSlot net f 0 := by
  intro f h
  refine ⟨net_invariant, ?_⟩
  simp only [List.mem_cons, List.not_mem_nil, or_false] at h
  rcases h with rfl | rfl
  · exact ⟨by decide, by decide, by decide, by decide, .inl (by decide)⟩
  · exact ⟨by decide, by decide, by decide, by decide, .inl (by decide)⟩

/-- HandlerNextLast: a `next` and a `last` of the transfer in progress, and stale ones. -/
theorem witness_HandlerNextLast :
    let mine := fun f : Frame => (slotAt busy 0).asmActive = true ∧ frameSeq f = (slotAt busy 0).asmSeq ∧
      frameSrc f = (slotAt busy 0).asmSrc
    Invariant busy ∧
    (ForMe busy (frame [0x2F]) ∧ (frame [0x2F]).data.length = (frame [0x2F]).dlc.toNat ∧
      DataSlot busy (frame [0x2F]) 0 ∧ frameType (frame [0x2F]) = .next ∧ mine (frame [0x2F])) ∧
    (ForMe busy (frame [0x4F]) ∧ DataSlot busy (frame [0x4F]) 0 ∧ frameType (frame [0x4F]) = .last ∧
      mine (frame [0x4F])) ∧
    (DataSlot busy (frame [0x2C]) 0 ∧ ¬mine (frame [0x2C])) ∧ (DataSlot busy (frame [0x4C]) 0 ∧ ¬mine (frame [0x4C])) :=
  ⟨busy_invariant, ⟨by decide, by decide, .inl (by decide), by decide, by decide⟩,
    ⟨by decide, .inl (by decide), by decide, by decide⟩, ⟨.inl (by decide), by decide⟩, ⟨.inl (by decide), by decide⟩⟩

/-- HandlerConnect: a response with and without its slot, a request with and without its listener. -/
theorem witness_HandlerConnect :
    let calls : State := { net with slots := [{ slotA with role := .connecting }, slotB] }
    let yes := frame [0x8C, 0x03]
    let ask := frame [0x8C]
    (Invariant calls ∧ ForMe calls yes ∧ frameType yes = .connect ∧ PeerSlot calls yes .connecting 0 ∧
      (frameByte yes 1).toNat / 2 % 2 = 1) ∧
    (ForMe net yes ∧ ∀ i, ¬PeerSlot net yes .connecting i) ∧
    (Invariant net ∧ ForMe net ask ∧ frameType ask = .connect ∧ PortSlot net ask .listen 1) ∧
    ∀ i, ¬PortSlot net (frame [0x80]) .listen i := by
  refine ⟨⟨invariant_of (by decide) (by decide) (by decide), by decide, by decide, by decide, by decide⟩,
    ⟨by decide, ?_⟩, ⟨net_invariant, by decide, by decide, by decide⟩, ?_⟩
  · rintro i ⟨hi, hr, -⟩
    have hi' : i < 2 := hi
    have : i = 0 ∨ i = 1 := by omega
    rcases this with rfl | rfl <;> exact absurd hr (by decide)
  · rintro i ⟨hi, hr, hp⟩
    have hi' : i < 2 := hi
    have : i = 0 ∨ i = 1 := by omega
    rcases this with rfl | rfl
    · exact absurd hr (by decide)
    · exact absurd hp (by decide)

/-- HandlerDisconnect and HandlerStatAck: frames with a slot and without; a STAT response of four bytes. -/
theorem witness_HandlerDisconnect :
    Invariant net ∧ ForMe net (frame [0xAC]) ∧ frameType (frame [0xAC]) = .disconnect ∧
    PeerSlot net (frame [0xAC]) .connected 0 ∧
    ∀ i, ¬(PeerSlot net (frame [0xA0]) .connecting i ∨ PeerSlot net (frame [0xA0]) .connected i) := by
  refine ⟨net_invariant, by decide, by decide, by decide, ?_⟩
  rintro i (⟨hi, hr, -⟩ | h)
  · have hi' : i < 2 := hi
    have : i = 0 ∨ i = 1 := by omega
    rcases this with rfl | rfl <;> exact absurd hr (by decide)
  · exact no_connected _ (by decide) i h

theorem witness_HandlerStatAck :
    (Invariant net ∧ ForMe net (frame [0xEC]) ∧ frameType (frame [0xEC]) = .ack ∧
      PeerSlot net (frame [0xEC]) .connected 0) ∧
    (ForMe net (frame [0xCC]) ∧ frameType (frame [0xCC]) = .stat) ∧
    (ForMe net (frame [0xCC, 2, 44, 0]) ∧ frameType (frame [0xCC, 2, 44, 0]) = .stat ∧
      (frameByte (frame [0xCC, 2, 44, 0]) 1).toNat / 2 % 2 = 1 ∧ 4 ≤ (frame [0xCC, 2, 44, 0]).dlc.toNat) ∧
    ∀ i, ¬PeerSlot net (frame [0xE0]) .connected i :=
  ⟨⟨net_invariant, by decide⟩, by decide, by decide, no_connected _ (by decide)⟩

/-- ResetInv, ResetValues: the smallest and the largest legal block. -/
theorem witness_ResetInv :
    Params.Legal { nslot := 1, nchunk := 1, evqDepth := 1, base := 0 } ∧
    Params.Legal { nslot := 8, nchunk := 65535, evqDepth := 255, base := 0x200 } ∧
    ¬Params.Legal { nslot := 9, nchunk := 1, evqDepth := 1, base := 0 } := by decide

/-- StepKeepsInv: a step from a state that meets the invariant, and that no run reaches in one step from reset. -/
theorem witness_StepKeepsInv : Invariant busy ∧ ∃ t, step busy = .next t := ⟨busy_invariant, _, rfl⟩

/-- TransferReassembled: 0, 7, 8 and 18 bytes (a `single`, a `first` and `last`, two `next` between them), one chunk
free, the ready chain filled to its capacity; on a CONNECTED slot and on a BOUND one. -/
theorem witness_TransferReassembled :
    ∀ n ∈ [0, 7, 8, 18], ∃ s u : State,
      (∀ t ∈ [s, u], Invariant t ∧ t.run = true ∧ (bytes n).length ≤ 0xFFFF ∧ t.events.length < t.params.evqDepth ∧
        t.rxin = transferFrames t.ownaddr 2 3 1 (bytes n) ++ [] ∧
        (bytes n).length ≤ (chainAt t 0).maxcap.toNat ∧
        totalSize t 1 + (bytes n).length ≤ (chainAt t 1).maxcap.toNat ∧
        ((bytes n).length + 31) / 32 ≤ freeChunks t + (chainAt t 0).chunks.length) ∧
      (∀ f ∈ transferFrames s.ownaddr 2 3 1 (bytes n), PeerSlot s f .connected 0) ∧
      (∀ f ∈ transferFrames u.ownaddr 2 3 1 (bytes n), PortSlot u f .bound 0 ∧ ∀ j, ¬PeerSlot u f .connected j) := by
  intro n h
  let s : State := { net with
    chains := [chainOf n 0, chainOf (n + 4) 4, chainOf 64 32, chainOf 64 0]
    rxin := transferFrames 1 2 3 1 (bytes n) }
  refine ⟨s, { s with slots := [{ slotA with role := .bound }, { slotB with role := .free }] }, ?_, ?_, ?_⟩
  · intro t ht
    simp only [List.mem_cons, List.not_mem_nil, or_false] at h ht
    rcases h with rfl | rfl | rfl | rfl <;> rcases ht with rfl | rfl <;>
      exact ⟨invariant_of (by decide) (by decide) (by decide), by decide⟩
  · simp only [List.mem_cons, List.not_mem_nil, or_false] at h
    rcases h with rfl | rfl | rfl | rfl <;> decide
  · intro f hf
    refine ⟨?_, ?_⟩
    · revert f
      simp only [List.mem_cons, List.not_mem_nil, or_false] at h
      rcases h with rfl | rfl | rfl | rfl <;> decide
    · rintro j ⟨hj, hr, -⟩
      have hj' : j < 2 := hj
      have : j = 0 ∨ j = 1 := by omega
      rcases this with rfl | rfl <;> exact absurd hr (by simp [slotAt])

end Sys2Proof.Machine.Tests
end

/-! PROOFS. The invariant through every step (R6, R34 to R39, R103): the reset values and the environment's steps, one
lemma a command, one lemma a frame handler, and from these every step of every agent. -/

namespace Sys2Proof.Machine

variable {s t : State}

/-- What every step gives: the invariant holds of the next state, and the parameters are the same (R6). -/
abbrev Keeps (s t : State) : Prop := Invariant t ∧ t.params = s.params

/-! ### Reset and the environment (R152, R154, R180, R181) -/

theorem slotOk_reset : SlotOk Slot.reset := by decide

theorem chainOk_reset : ChainOk Chain.reset := by decide

theorem slotAt_powerOn (p : Params) (i : Nat) : slotAt (State.powerOn p) i = Slot.reset := by
  simp only [slotAt, State.powerOn, List.getD_eq_getElem?_getD, List.getElem?_replicate]
  split <;> rfl

theorem usedChunks_powerOn (p : Params) : usedChunks (State.powerOn p) = 0 := by
  simp [usedChunks, State.powerOn, Chain.reset]

/-- Power-on with legal parameters meets the invariant (R181). -/
theorem invariant_powerOn {p : Params} (hp : p.Legal) : Invariant (State.powerOn p) where
  params := hp
  shaped := ⟨List.length_replicate, List.length_replicate⟩
  ports i _ j _ hl := by simp [slotAt_powerOn, Slot.reset, isListening] at hl
  peers i _ j _ hl := by simp [slotAt_powerOn, Slot.reset, isPeered] at hl
  slots x hx := List.eq_of_mem_replicate hx ▸ slotOk_reset
  chains x hx := List.eq_of_mem_replicate hx ▸ chainOk_reset
  pool := by simp [usedChunks_powerOn]
  fifo := Nat.zero_le _
  evSlots := by simp [State.powerOn]
  evRegs := ⟨BitVec.zero_and, BitVec.zero_and⟩
  xbuf := rfl
  own := by simp [State.powerOn]
  rxin := by simp [State.powerOn]
  txout := by simp [State.powerOn]

/-- Reset gives the block its power-on state; RXIN and TXOUT stay (R180, R181). -/
theorem Invariant.resetBlock (h : Invariant s) : Invariant (resetBlock s) :=
  have hp := invariant_powerOn h.params
  { params := hp.params, shaped := hp.shaped, ports := hp.ports, peers := hp.peers, slots := hp.slots
    chains := hp.chains, pool := hp.pool, fifo := hp.fifo, evSlots := hp.evSlots, evRegs := hp.evRegs
    xbuf := hp.xbuf, own := hp.own, rxin := h.rxin, txout := h.txout }

theorem Invariant.withAgenda (h : Invariant s) (ts : List Turn) : Invariant { s with agenda := ts } :=
  h.congr rfl rfl rfl rfl rfl rfl rfl rfl rfl rfl rfl

/-- RXIN with frame records only keeps the invariant (R40). -/
theorem Invariant.withRxin (h : Invariant s) {fs : List Frame} (hf : ∀ f ∈ fs, Frame.wf f = true) :
    Invariant { s with rxin := fs } :=
  { h with rxin := hf }

theorem Invariant.offerFrame (h : Invariant s) (f : Frame) : Invariant (offerFrame f s) :=
  h.withRxin fun g hg => by
    rcases List.mem_append.mp hg with hg | hg
    · exact h.rxin g hg
    · exact List.mem_singleton.mp hg ▸ wf_record f

/-- RUN falls to 0, so nothing is asked of OWNADDR (R154, R157). -/
theorem Invariant.stopped (h : Invariant s) : Invariant { s with run := false } :=
  { h with own := nofun }

theorem Invariant.rxDeviceError (h : Invariant s) : Invariant (rxDeviceError s) := by
  unfold Machine.rxDeviceError
  split
  · exact h.stopped.congr rfl rfl rfl rfl rfl rfl rfl rfl rfl rfl rfl
  · exact h

theorem rxDeviceError_params (s : State) : (rxDeviceError s).params = s.params := by
  unfold rxDeviceError; split <;> rfl

/-! ### The commands: one lemma for each that writes more than a result -/

theorem execCrcUpdate_keeps (h : Invariant s) {len : Half} (hx : execCrcUpdate len s = .next t) : Keeps s t := by
  obtain rfl | ⟨-, rfl⟩ := execCrcUpdate_cases hx
  · exact ⟨h.fail _, rfl⟩
  · exact ⟨h.congr rfl rfl rfl rfl rfl rfl rfl rfl rfl rfl rfl, rfl⟩

theorem execBufInit_keeps (h : Invariant s) {ch : BitVec 4} {m : Half} (hx : execBufInit ch m s = .next t) :
    Keeps s t := by
  obtain rfl | rfl | ⟨hc, -, rfl⟩ := execBufInit_cases hx
  · exact ⟨h.fail _, rfl⟩
  · exact ⟨h.fail _, rfl⟩
  · exact ⟨(h.emptyChain m (badChain_false hc)).done, rfl⟩

theorem execBufWrite_keeps (h : Invariant s) {ch : BitVec 4} {len : Half} (hx : execBufWrite ch len s = .next t) :
    Keeps s t := by
  obtain hfail | ⟨hc, -, -, u, hu, rfl⟩ := execBufWrite_cases hx
  · obtain rfl | rfl | rfl | rfl := hfail <;> exact ⟨h.fail _, rfl⟩
  · exact ⟨((h.chainWrite (badChain_false hc) hu).setRes0Nat _).done, (chainWrite_same hu).1⟩

theorem execBufRead_keeps (h : Invariant s) {ch : BitVec 4} {len : Half} (hx : execBufRead ch len s = .next t) :
    Keeps s t := by
  obtain rfl | rfl | ⟨hc, -, -, rfl⟩ := execBufRead_cases hx
  · exact ⟨h.fail _, rfl⟩
  · exact ⟨h.fail _, rfl⟩
  · have hr := (h.chainRead len.toNat (badChain_false hc)).xwriteRange s.arg0.toNat (chainReadBytes ch.toNat len.toNat s)
    exact ⟨((hr.setRes0Nat _).setRes1Nat _).done, by simp⟩

theorem execBufMove_keeps (h : Invariant s) {dst src : BitVec 4} (hx : execBufMove dst src s = .next t) :
    Keeps s t := by
  obtain hfail | ⟨hd, hc, hne, -, -, u, hu, rfl⟩ := execBufMove_cases hx
  · obtain rfl | rfl | rfl := hfail <;> exact ⟨h.fail _, rfl⟩
  · exact ⟨((h.chainMove (badChain_false hd) (badChain_false hc) hne hu).setRes0Nat _).done, (chainMove_same hu).1⟩

theorem execBufClear_keeps (h : Invariant s) {ch : BitVec 4} (hx : execBufClear ch s = .next t) : Keeps s t := by
  obtain rfl | rfl | ⟨hc, -, rfl⟩ := execBufClear_cases hx
  · exact ⟨h.fail _, rfl⟩
  · exact ⟨h.fail _, rfl⟩
  · exact ⟨(h.chainClear (badChain_false hc)).done, rfl⟩

theorem execBufIsfull_keeps (h : Invariant s) {ch : BitVec 4} (hx : execBufIsfull ch s = .next t) : Keeps s t := by
  obtain rfl | ⟨-, rfl⟩ := execBufIsfull_cases hx
  · exact ⟨h.fail _, rfl⟩
  · exact ⟨(h.setRes0 _).done, rfl⟩

theorem execBufAvail_keeps (h : Invariant s) {ch : BitVec 4} (hx : execBufAvail ch s = .next t) : Keeps s t := by
  obtain rfl | ⟨-, rfl⟩ := execBufAvail_cases hx
  · exact ⟨h.fail _, rfl⟩
  · exact ⟨(h.setRes0Nat _).done, rfl⟩

theorem execBufSize_keeps (h : Invariant s) {ch : BitVec 4} (hx : execBufSize ch s = .next t) : Keeps s t := by
  obtain rfl | ⟨-, rfl⟩ := execBufSize_cases hx
  · exact ⟨h.fail _, rfl⟩
  · exact ⟨(h.setRes0Nat _).done, rfl⟩

theorem slotAt_abortAsm_same (h : Invariant s) {i : Nat} (hi : i < s.params.nslot) :
    slotAt (abortAsm i s) i = { slotAt s i with asmActive := false, asmErr := false } := by
  rw [slotAt_abortAsm s i i (by rw [h.shaped.1]; exact hi), if_pos rfl]

/-- After abort_asm the slot's assembly is over (R122). -/
theorem abortAsm_ends (h : Invariant s) {i : Nat} (hi : i < s.params.nslot) :
    (slotAt (abortAsm i s) i).asmActive = false ∧ (slotAt (abortAsm i s) i).asmErr = false := by
  rw [slotAt_abortAsm_same h hi]
  exact ⟨rfl, rfl⟩

/-- SLOT_SET registers only without a conflict, after the slot's assembly is aborted (R34, R124). -/
theorem execSlotSet_keeps (h : Invariant s) {slot : BitVec 4} {role : BitVec 3} {proto : Proto} {port : Port}
    (hx : execSlotSet slot role proto port s = .next t) : Keeps s t := by
  obtain hfail | ⟨r, hb, -, -, hrem, hcon, rfl⟩ := execSlotSet_cases hx
  · obtain rfl | rfl := hfail <;> exact ⟨h.fail _, rfl⟩
  · have hi := badSlot_false hb
    obtain ⟨hact, herr⟩ := abortAsm_ends h hi
    exact ⟨((h.abortAsm hi).register hi hrem (by rwa [conflict_abortAsm]) hact herr).done, rfl⟩

@[simp] theorem slotAt_chainClear (c j : Nat) (s : State) : slotAt (chainClear c s) j = slotAt s j := rfl

theorem conflict_free (s : State) (i : Nat) (port : Port) (remote : BusAddr) :
    conflict s i .free port remote = false := by
  simp [conflict, excludes, isListening, isPeered]

/-- SLOT_FREE leaves a slot that excludes no other (R34, R125). -/
theorem execSlotFree_keeps (h : Invariant s) {slot : BitVec 4} (hx : execSlotFree slot s = .next t) : Keeps s t := by
  obtain rfl | ⟨hb, rfl⟩ := execSlotFree_cases hx
  · exact ⟨h.fail _, rfl⟩
  · have hi := badSlot_false hb
    obtain ⟨hact, herr⟩ := abortAsm_ends h hi
    have hc : Invariant (chainClear (readyChain slot.toNat) (abortAsm slot.toNat s)) :=
      (h.abortAsm hi).chainClear (readyChain_lt hi)
    rw [← slotAt_chainClear (readyChain slot.toNat)] at hact herr
    have hfree : Invariant (register slot.toNat .free .dgram 0 addrAny
        (chainClear (readyChain slot.toNat) (abortAsm slot.toNat s))) :=
      hc.register hi rfl (conflict_free ..) hact herr
    exact ⟨hfree.done, by simp⟩

theorem execSlotGet_keeps (h : Invariant s) {slot : BitVec 4} (hx : execSlotGet slot s = .next t) : Keeps s t := by
  obtain rfl | ⟨-, rfl⟩ := execSlotGet_cases hx
  · exact ⟨h.fail _, rfl⟩
  · exact ⟨((h.setRes0 _).setRes1 _).done, rfl⟩

/-- An address IF_UP takes is neither "any" nor broadcast (R157). -/
theorem addrOf_legal {w : Word} (h : badOwnAddr w = false) : addrOf w ≠ addrAny ∧ addrOf w ≠ addrBcast := by
  rw [← Bool.not_eq_true, badOwnAddr_iff, not_or, Nat.not_le] at h
  have ha : (addrOf w).toNat = w.toNat := by
    rw [addrOf, BitVec.extractLsb'_toNat, Nat.shiftRight_zero, Nat.mod_eq_of_lt (by omega)]
  constructor <;> intro he <;> rw [he] at ha
  · exact h.1 ha.symm
  · exact h.2.ne ha.symm

theorem execIfUp_keeps (h : Invariant s) (hx : execIfUp s = .next t) : Keeps s t := by
  obtain rfl | ⟨hb, rfl⟩ := execIfUp_cases hx
  · exact ⟨h.fail _, rfl⟩
  · exact ⟨{ h with own := fun _ => addrOf_legal hb }, rfl⟩

theorem execTxSend_keeps (h : Invariant s) {ty : FrameType} {port : Port} {seq : Seq} {len : BitVec 4}
    (hx : execTxSend ty port seq len s = .next t) : Keeps s t := by
  obtain hfail | ⟨hl, -, -, ⟨-, rfl⟩ | ⟨-, rfl⟩⟩ := execTxSend_cases hx
  · obtain rfl | rfl := hfail <;> exact ⟨h.fail _, rfl⟩
  · exact ⟨h.answerUsed.fail _, rfl⟩
  · exact ⟨(h.sent (txFrame_ok hl s)).answerUsed.done, rfl⟩

/-- EV_POP shows an event's words, whose reserved bits are 0, and the FIFO gets no longer (R22, R39, R151). -/
theorem execEvPop_keeps (h : Invariant s) (hx : execEvPop s = .next t) : Keeps s t := by
  obtain ⟨-, rfl⟩ | ⟨e, es, he, rfl⟩ := execEvPop_cases hx
  · exact ⟨{ h with evRegs := ⟨BitVec.zero_and, BitVec.zero_and⟩ }, rfl⟩
  · have hlen : es.length + 1 ≤ s.params.evqDepth := by simpa [evCount, he] using h.fifo
    have hes : ∀ x ∈ es, x.slot.toNat < s.params.nslot := fun x hx => h.evSlots x (he ▸ List.mem_cons_of_mem _ hx)
    exact ⟨{ h with
      fifo := Nat.le_of_succ_le hlen
      evSlots := hes
      evRegs := ⟨ev0Word_reserved e, ev1Word_reserved e⟩ }, rfl⟩

/-- Every command keeps the invariant and the parameters. -/
theorem exec_keeps (h : Invariant s) {i : Instr} (hx : exec i s = .next t) : Keeps s t := by
  cases i with
  | nop => cases hx; exact ⟨h.done, rfl⟩
  | hdrPack => cases hx; exact ⟨(h.setRes0 _).done, rfl⟩
  | hdrUnpack => cases hx; exact ⟨(h.setRes0 _).done, rfl⟩
  | idPack => cases hx; exact ⟨(h.setRes0 _).done, rfl⟩
  | idUnpack => cases hx; exact ⟨((h.setRes0 _).setRes1 _).done, rfl⟩
  | idMatch => cases hx; exact ⟨(h.setRes0 _).done, rfl⟩
  | crcInit => cases hx; exact ⟨h.congr rfl rfl rfl rfl rfl rfl rfl rfl rfl rfl rfl, rfl⟩
  | crcUpdate => exact execCrcUpdate_keeps h hx
  | bufInit => exact execBufInit_keeps h hx
  | bufWrite => exact execBufWrite_keeps h hx
  | bufRead => exact execBufRead_keeps h hx
  | bufMove => exact execBufMove_keeps h hx
  | bufClear => exact execBufClear_keeps h hx
  | bufIsfull => exact execBufIsfull_keeps h hx
  | bufAvail => exact execBufAvail_keeps h hx
  | bufSize => exact execBufSize_keeps h hx
  | slotSet => exact execSlotSet_keeps h hx
  | slotFree => exact execSlotFree_keeps h hx
  | slotGet => exact execSlotGet_keeps h hx
  | ifUp => exact execIfUp_keeps h hx
  | ifDown => cases hx; exact ⟨h.stopped.done, rfl⟩
  | cntClear => cases hx; exact ⟨h.congr rfl rfl rfl rfl rfl rfl rfl rfl rfl rfl rfl, rfl⟩
  | txSend => exact execTxSend_keeps h hx
  | evPop => exact execEvPop_keeps h hx

/-- A word written to CMD, be it a command or none (R19, R67). -/
theorem runCommand_keeps (h : Invariant s) {w : Word} (hx : runCommand w s = .next t) : Keeps s t := by
  have h1 : Invariant { s with lastcmd := w } := h.congr rfl rfl rfl rfl rfl rfl rfl rfl rfl rfl rfl
  unfold runCommand at hx
  dsimp only at hx
  split at hx
  · exact exec_keeps (s := { s with lastcmd := w }) h1 hx
  · cases hx; exact ⟨h1.fail _, rfl⟩
  · cases hx; exact ⟨h1.fail _, rfl⟩

/-! ### The frame handlers (R137 to R145) -/

theorem OnlyTable.params (h : OnlyTable s t) : t.params = s.params := by rw [h]

theorem continues_active {x : Slot} {f : Frame} (h : continues x f = true) : x.asmActive = true := by
  simp only [continues, Bool.and_eq_true] at h
  exact h.1.1

section Handlers

variable {f : Frame} (h : Invariant s) (hr : evCount s < s.params.evqDepth)
include h

/-- From CONNECTING to CONNECTED: the slot was peered with this port and remote before, so R34 (b) holds on (R141). -/
theorem Invariant.setRole_connected {i : Nat} (hi : i < s.params.nslot) (hc : (slotAt s i).role = .connecting) :
    Invariant (setRole i .connected s) := by
  have ho := h.slotOk hi
  have hp : isPeered (slotAt s i).role = true := by rw [hc]; rfl
  refine h.setSlot hi ⟨fun _ => ho.1 hp, fun _ => .inr rfl, ho.2.2⟩ nofun ?_
  exact fun _ j hj hne lj he hm => hne (h.peers j hj i hi lj hp he hm)

/-- A CLOSED slot excludes no other slot; it must not be assembling (R34 (d), R143). -/
theorem Invariant.setRole_closed {i : Nat} (hi : i < s.params.nslot) (ha : (slotAt s i).asmActive = false) :
    Invariant (setRole i .closed s) :=
  h.setSlot_unregistered hi ⟨nofun, fun h1 => by simp [ha] at h1, (h.slotOk hi).2.2⟩ rfl rfl

/-- An assembly starts on a BOUND or CONNECTED slot only (R34 (d), R138). -/
theorem Invariant.startAsm {i : Nat} (hi : i < s.params.nslot)
    (hrole : (slotAt s i).role = .bound ∨ (slotAt s i).role = .connected) : Invariant (startAsm f i s) :=
  h.setSlot_sameRegistration hi ⟨(h.slotOk hi).1, fun _ => hrole, nofun⟩ rfl rfl rfl

theorem Invariant.handleFirst (hh : handleFirst f s = some t) : Invariant t := by
  obtain ⟨i, hroute, rfl⟩ := Option.map_eq_some_iff.mp hh
  obtain ⟨hi, hrole⟩ := routeData_some hroute
  have hab := h.abortAsm hi
  have hst : Invariant (Machine.startAsm f i (Machine.abortAsm i s)) :=
    hab.startAsm hi (by rwa [slotAt_abortAsm_same h hi])
  have hact : (slotAt (Machine.startAsm f i (Machine.abortAsm i s)) i).asmActive = true := by
    rw [Machine.startAsm, slotAt_setSlot_same _ (by rw [hab.shaped.1]; exact hi)]
  exact (hst.appendAsm hi hact).1

theorem Invariant.handleNext (hh : handleNext f s = some t) : Invariant t := by
  unfold Machine.handleNext at hh
  split at hh
  · cases hh
  · rename_i i hroute
    split at hh <;> cases hh
    rename_i hc
    exact (h.appendAsm (routeData_some hroute).1 (continues_active hc)).1

include hr

theorem Invariant.handleLast (hh : handleLast f s = some t) : Invariant t := by
  unfold Machine.handleLast at hh
  split at hh
  · cases hh
  · rename_i i hroute
    split at hh <;> cases hh
    rename_i hc
    have hi := (routeData_some hroute).1
    obtain ⟨ha, hp, he⟩ := h.appendAsm (b := framePayload f 1) hi (continues_active hc)
    exact ha.finishAsm f (by rwa [hp]) (by rwa [evCount, he, hp])

theorem Invariant.handleSingle (hh : handleSingle f s = some t) : Invariant t := by
  obtain ⟨i, hroute, rfl⟩ := Option.map_eq_some_iff.mp hh
  have hi := (routeData_some hroute).1
  have ha := h.abortAsm hi
  dsimp only
  split
  · rename_i w hw
    obtain ⟨ep, ee, -⟩ := chainWrite_same hw
    have hwi := ha.chainWrite (asmChain_lt hi) hw
    have hi' : i < w.params.nslot := by rwa [ep]
    have hr' : evCount w < w.params.evqDepth := by rwa [evCount, ee, ep]
    split
    · rename_i m hm
      obtain ⟨mp, me, -⟩ := chainMove_same hm
      have hmi := hwi.chainMove (readyChain_lt hi') (asmChain_lt hi') (readyChain_ne_asmChain i i) hm
      exact hmi.transferDone f (by rwa [mp]) (by rwa [evCount, me, mp]) _ _
    · exact hwi.transferFails f hi' hr' _ _
    · exact hwi.transferFails f hi' hr' _ _
  · exact ha.transferFails f hi hr _ _
  · exact ha.transferFails f hi hr _ _

theorem Invariant.handleConnect (hh : handleConnect f s = some t) : Invariant t := by
  unfold Machine.handleConnect at hh
  dsimp only at hh
  split at hh
  · obtain ⟨i, hfind, rfl⟩ := Option.map_eq_some_iff.mp hh
    obtain ⟨hi, hrole, -, -⟩ := findPeer_some hfind
    split
    · exact (h.setRole_connected hi (of_decide_eq_true hrole)).post hr (h.slotNumber hi)
    · exact h.post hr (h.slotNumber hi)
  · obtain ⟨i, hfind, rfl⟩ := Option.map_eq_some_iff.mp hh
    exact h.post hr (h.slotNumber (findPort_some hfind).1)

theorem Invariant.handleDisconnect (hh : handleDisconnect f s = some t) : Invariant t := by
  obtain ⟨i, hfind, rfl⟩ := Option.map_eq_some_iff.mp hh
  have hi := (findPeer_some hfind).1
  have hc := (h.abortAsm hi).setRole_closed hi (abortAsm_ends h hi).1
  exact hc.post hr (h.slotNumber hi)

theorem Invariant.handleStat (hh : handleStat f s = some t) : Invariant t := by
  obtain ⟨i, hfind, rfl⟩ := Option.map_eq_some_iff.mp hh
  have hi := (findPeer_some hfind).1
  split
  · exact h.post hr (h.slotNumber hi)
  · exact h.post hr (h.slotNumber hi)

theorem Invariant.handleAck (hh : handleAck f s = some t) : Invariant t := by
  obtain ⟨i, hfind, rfl⟩ := Option.map_eq_some_iff.mp hh
  exact h.post hr (h.slotNumber (findPeer_some hfind).1)

/-- A frame's handler keeps the invariant where the event FIFO has room: each posts at most one event (R127, R128). -/
theorem Invariant.handle (hh : handle f s = some t) : Invariant t := by
  unfold Machine.handle at hh
  split at hh
  · exact h.handleFirst hh
  · exact h.handleNext hh
  · exact h.handleLast hr hh
  · exact h.handleSingle hr hh
  · exact h.handleConnect hr hh
  · exact h.handleDisconnect hr hh
  · exact h.handleStat hr hh
  · exact h.handleAck hr hh

theorem receive_keeps (f : Frame) : Keeps s (receive f s) := by
  obtain hd | ⟨t, ht, hh, he⟩ := receive_cases f s
  · rw [hd]; exact ⟨h.drop, rfl⟩
  · rw [he]; exact ⟨(h.handle hr hh).take f, ht.params⟩

end Handlers

/-! ### Every step of every agent -/

/-- The dispatcher takes a frame only where the event FIFO has room (R127). -/
theorem dispatcherTurn_keeps (h : Invariant s) : Keeps s (dispatcherTurn s) := by
  obtain he | ⟨f, fs, hin, -, hroom, he⟩ := dispatcherTurn_cases s
  · rw [he]; exact ⟨h, rfl⟩
  · have hfs : ∀ g ∈ fs, Frame.wf g = true := fun g hg => h.rxin g (hin ▸ List.mem_cons_of_mem _ hg)
    rw [he]
    exact receive_keeps (s := { s with rxin := fs }) (h.withRxin hfs) hroom f

/-- Settles O59, agent by agent along `step_cases`: the dispatcher (with no turn listed, or scheduled), a host read, a
host write (ignored, or of CMD, ARG0, ARG1, IRQEN or XBUF), the environment's frame and RX error, and reset. -/
theorem stepKeepsInv : Obligations.StepKeepsInv := by
  unfold Obligations.StepKeepsInv
  intro s t h hstep
  obtain ⟨rfl, -⟩ | ⟨tn, ts, -, htn⟩ := step_cases hstep
  · exact dispatcherTurn_keeps h
  have ha := h.withAgenda ts
  obtain ⟨-, rfl⟩ | ⟨w, a, -, ht⟩ | ⟨w, a, v, -, hw⟩ | ⟨f, -, rfl⟩ | ⟨-, rfl⟩ | ⟨-, rfl⟩ := htn
  · exact dispatcherTurn_keeps ha
  · rw [ht]; exact ⟨ha.congr rfl rfl rfl rfl rfl rfl rfl rfl rfl rfl rfl, rfl⟩
  · obtain rfl | ⟨-, off, -, ⟨-, hrun⟩ | ⟨-, rfl⟩ | ⟨-, rfl⟩ | ⟨-, rfl⟩ | ⟨-, ht⟩⟩ := hw
    · exact ⟨ha, rfl⟩
    · exact runCommand_keeps (s := { s with agenda := ts }) ha hrun
    · exact ⟨ha.congr rfl rfl rfl rfl rfl rfl rfl rfl rfl rfl rfl, rfl⟩
    · exact ⟨ha.congr rfl rfl rfl rfl rfl rfl rfl rfl rfl rfl rfl, rfl⟩
    · exact ⟨ha.congr rfl rfl rfl rfl rfl rfl rfl rfl rfl rfl rfl, rfl⟩
    · rw [ht]; exact ⟨ha.xwriteRange _ _, xwriteRange_params ..⟩
  · exact ⟨ha.offerFrame f, rfl⟩
  · exact ⟨ha.rxDeviceError, rxDeviceError_params _⟩
  · exact ⟨ha.resetBlock, rfl⟩

end Sys2Proof.Machine

/-! PROOFS. The host's side (R16 to R30, R46 to R49, R168): what an aligned access of the window does, which steps
fault, and the words of the registers as numbers. -/

namespace Sys2Proof.Machine

variable {s t : State}

/-! ### One turn of the host (R15, R47, R48) -/

theorem step_turn {tn : Turn} {ts : List Turn} (hag : s.agenda = tn :: ts) :
    step s = runTurn tn { s with agenda := ts } := by
  rw [step, nextTurn, hag]

/-- An aligned offset of the window is an access the block performs: CFE_BASE is aligned (R47, R48). -/
theorem wordAccess_offset {p : Params} (hp : p.Legal) {off : Nat} (hlt : off < 0x200) (h4 : off % 4 = 0) :
    wordAccess p 4 (p.base + off) = true := by
  have hbase : p.base % 0x200 = 0 := hp.2.2.2
  rw [wordAccess_iff]
  omega

theorem step_read (hp : s.params.Legal) {off : Nat} {ts : List Turn} (hlt : off < 0x200) (h4 : off % 4 = 0)
    (hag : s.agenda = .read 4 (s.params.base + off) :: ts) :
    step s = .next { s with agenda := ts, readData := some (readWindow off s) } := by
  rw [step_turn hag, runTurn, hostRead, if_pos (wordAccess_offset hp hlt h4), Nat.add_sub_cancel_left]
  rfl

theorem step_write (hp : s.params.Legal) {off : Nat} {w : Word} {ts : List Turn} (hlt : off < 0x200)
    (h4 : off % 4 = 0) (hag : s.agenda = .write 4 (s.params.base + off) w :: ts) :
    step s = writeWindow off w { s with agenda := ts } := by
  rw [step_turn hag, runTurn, hostWrite, if_pos (wordAccess_offset hp hlt h4), Nat.add_sub_cancel_left]

/-- A host access that touches the window and is not one the block performs is the bus error (R47, R168). -/
theorem step_busError {width addr : Nat} {v : Word} {ts : List Turn}
    (hag : s.agenda = .read width addr :: ts ∨ s.agenda = .write width addr v :: ts)
    (hw : ¬wordAccess s.params width addr = true) (hr : reaches s.params width addr = true) :
    step s = .fault .busError := by
  obtain hag | hag := hag
  · rw [step_turn hag, runTurn, hostRead, if_neg hw, if_pos hr]
  · rw [step_turn hag, runTurn, hostWrite, if_neg hw, if_pos hr]

/-! ### The words of the window (R18, R29, R30) -/

theorem regAt_reserved {off : Nat} (h1 : 0x044 ≤ off) : regAt off = none := by
  cases hr : regAt off with
  | none => rfl
  | some r =>
    have := regOffset_of_regAt hr
    cases r <;> simp only [regOffset] at this <;> omega

theorem readWindow_reserved {off : Nat} (h1 : 0x044 ≤ off) (h2 : off < 0x100) (s : State) : readWindow off s = 0 := by
  rw [readWindow, if_neg (by rw [xbufWindow]; omega), regAt_reserved h1]

theorem writeWindow_reserved {off : Nat} (h1 : 0x044 ≤ off) (h2 : off < 0x100) (w : Word) (s : State) :
    writeWindow off w s = .next s := by
  rw [writeWindow, if_neg (by rw [xbufWindow]; omega), regAt_reserved h1]

/-- The registers a write reaches (R17, R19, R28, R49); the others ignore it (R30, R168). -/
theorem writeReg_ignored {r : Reg} (h : r ∉ [Reg.cmd, .arg0, .arg1, .irqen]) (w : Word) (s : State) :
    writeReg r w s = .next s := by
  cases r with
  | cmd | arg0 | arg1 | irqen => simp at h
  | _ => rfl

/-- A write of the register part of the window that is none of CMD, ARG0, ARG1 and IRQEN is ignored (R30, R168). -/
theorem writeWindow_ignored {off : Nat} (hlt : off < 0x100) (hcmd : off ≠ 0x000) (h0 : off ≠ 0x004) (h1 : off ≠ 0x008)
    (hirq : off ≠ 0x040) (w : Word) (s : State) : writeWindow off w s = .next s := by
  rw [writeWindow, if_neg (by rw [xbufWindow]; omega)]
  cases hr : regAt off with
  | none => rfl
  | some r =>
    refine writeReg_ignored (fun hmem => ?_) w s
    have ho := regOffset_of_regAt hr
    simp only [List.mem_cons, List.not_mem_nil, or_false] at hmem
    obtain rfl | rfl | rfl | rfl := hmem
    · exact hcmd ho.symm
    · exact h0 ho.symm
    · exact h1 ho.symm
    · exact hirq ho.symm

/-- Settles O15: an aligned write at the offset of ARG0 or of ARG1 (R17, R49). -/
theorem argumentWrites : Obligations.ArgumentWrites := by
  unfold Obligations.ArgumentWrites
  intro s w ts hp
  refine ⟨fun hag => ?_, fun hag => ?_⟩
  · rw [step_write hp (by decide) (by decide) hag]; rfl
  · rw [step_write hp (by decide) (by decide) hag]; rfl

/-- Settles O9: `step_read` gives the step, and each register's word is `readWindow` at its offset (R18). -/
theorem registerReads : Obligations.RegisterReads := by
  unfold Obligations.RegisterReads
  intro s off ts hp hlt h4 hag
  refine ⟨readWindow off s, step_read hp hlt h4 hag, rfl, ?_⟩
  have hcrc : readWindow 0x018 s = s.crcacc.setWidth 32 := rfl
  refine ⟨?_, ?_, ?_, ?_, ?_, ?crcacc, ?_, ?_, ?_, ?_, ?_, ?_, ?_, ?_, ?_, ?_, ?_, ?reserved, ?again⟩
  case crcacc => rintro rfl; rw [hcrc, toNat_setWidth_le _ (by decide)]
  case reserved => exact fun h1 h2 => readWindow_reserved h1 h2 s
  case again =>
    rintro ts' rfl
    exact step_read
      (s := { s with agenda := .read 4 (s.params.base + off) :: ts', readData := some (readWindow off s) })
      hp hlt h4 rfl
  all_goals rintro rfl; rfl

/-! ### The write that runs a command (R16, R19) -/

theorem runCommand_of_decode {w : Word} {i : Instr} (h : decode w = .command i) (s : State) :
    runCommand w s = exec i { s with lastcmd := w } := by
  rw [runCommand, h]

/-- The host's write of a command's word to CMD, at offset 0, runs the command (R16, R19). -/
theorem step_command (hp : s.params.Legal) {w : Word} {ts : List Turn} {i : Instr}
    (hag : s.agenda = .write 4 (s.params.base + 0x000) w :: ts) (hd : decode w = .command i) :
    step s = exec i { s with agenda := ts, lastcmd := w } := by
  rw [step_write hp (by decide) (by decide) hag]
  exact runCommand_of_decode hd _

theorem decode_of_decodeTableWord {n w : Nat} {i : Instr} (h : decodeTableWord n w = some i) :
    decode (BitVec.ofNat 32 w) = .command i := by
  unfold decodeTableWord at h
  split at h
  · split at h <;> cases h
    assumption
  · cases h

/-- Settles O4: `step_command`, for a turn of any agenda and for the one `withFetchWord` places, which is a write of the
word to CMD (log entry 8). -/
theorem stepRunsDecoded : Obligations.StepRunsDecoded := by
  unfold Obligations.StepRunsDecoded
  refine ⟨fun s w ts i hp hag hd => step_command hp hag hd, fun s w i hp hd => ?_⟩
  exact step_command (s := s.withFetchWord 32 w) hp rfl (decode_of_decodeTableWord hd)

/-! ### Which steps fault (R47, R163, R168) -/

/-- The outcome is a next state: no fault and no refusal. -/
abbrev Answers (r : Result) : Prop := ∃ t, r = .next t

theorem Answers.next (s : State) : Answers (.next s) := ⟨s, rfl⟩

theorem Answers.ite {c : Prop} [Decidable c] {a b : Result} (ha : Answers a) (hb : Answers b) :
    Answers (if c then a else b) := by
  split
  · exact ha
  · exact hb

/-- A command that checks its operands once. -/
theorem Answers.ite_next (c : Prop) [Decidable c] (s t : State) : Answers (if c then .next s else .next t) :=
  .ite (.next s) (.next t)

/-- Every command answers a next state: a failure is one too (R163). -/
theorem exec_answers (i : Instr) (s : State) : Answers (exec i s) := by
  cases i with
  | nop => exact .next _
  | hdrPack => exact .next _
  | hdrUnpack => exact .next _
  | idPack => exact .next _
  | idUnpack => exact .next _
  | idMatch => exact .next _
  | crcInit => exact .next _
  | crcUpdate => exact .ite_next ..
  | bufInit => exact .ite (.next _) (.ite_next ..)
  | bufWrite =>
    refine .ite (.next _) (.ite (.next _) ?_)
    split <;> exact .next _
  | bufRead => exact .ite (.next _) (.ite_next ..)
  | bufMove =>
    refine .ite (.next _) (.ite (.next _) ?_)
    split <;> exact .next _
  | bufClear => exact .ite (.next _) (.ite_next ..)
  | bufIsfull => exact .ite_next ..
  | bufAvail => exact .ite_next ..
  | bufSize => exact .ite_next ..
  | slotSet =>
    refine .ite (.next _) ?_
    split
    · exact .next _
    · exact .ite (.next _) (.ite (.next _) (.ite_next ..))
  | slotFree => exact .ite_next ..
  | slotGet => exact .ite_next ..
  | ifUp => exact .ite_next ..
  | ifDown => exact .next _
  | cntClear => exact .next _
  | txSend => exact .ite (.next _) (.ite (.next _) (.ite_next ..))
  | evPop =>
    show Answers (execEvPop s)
    unfold execEvPop
    split <;> exact .next _

theorem runCommand_answers (w : Word) (s : State) : Answers (runCommand w s) := by
  unfold runCommand
  dsimp only
  split
  · exact exec_answers _ _
  · exact .next _
  · exact .next _

theorem writeReg_answers (r : Reg) (w : Word) (s : State) : Answers (writeReg r w s) := by
  cases r with
  | cmd => exact runCommand_answers w s
  | _ => exact .next _

theorem writeWindow_answers (off : Nat) (w : Word) (s : State) : Answers (writeWindow off w s) := by
  unfold writeWindow
  refine .ite (.next _) ?_
  split
  · exact writeReg_answers _ w s
  · exact .next _

/-- A host access answers a next state, or it is the bus error of an access that is not an aligned 32-bit one of the
window (R47, R168). -/
theorem hostAccess_cases {width addr : Nat} {v : Word} {r : Result}
    (h : r = hostRead width addr s ∨ r = hostWrite width addr v s) :
    Answers r ∨ (r = .fault .busError ∧ ¬wordAccess s.params width addr = true) := by
  obtain rfl | rfl := h
  · unfold hostRead
    split
    · exact .inl (.next _)
    · split
      · exact .inr ⟨rfl, ‹_›⟩
      · exact .inl (.next _)
  · unfold hostWrite
    split
    · exact .inl (writeWindow_answers _ _ _)
    · split
      · exact .inr ⟨rfl, ‹_›⟩
      · exact .inl (.next _)

/-- Every step answers a next state, but for the bus error of a host access (R168). -/
theorem step_answers_or_busError (s : State) :
    Answers (step s) ∨ (step s = .fault .busError ∧
      ∃ (width addr : Nat) (v : Word) (ts : List Turn),
        (s.agenda = .read width addr :: ts ∨ s.agenda = .write width addr v :: ts) ∧
        ¬wordAccess s.params width addr = true) := by
  cases hag : s.agenda with
  | nil => rw [step, nextTurn, hag]; exact .inl (.next _)
  | cons tn ts =>
    rw [step_turn hag]
    cases tn with
    | read width addr =>
      exact (hostAccess_cases (v := 0) (.inl rfl)).imp_right fun ⟨hr, hw⟩ =>
        ⟨hr, width, addr, 0, ts, .inl rfl, hw⟩
    | write width addr v =>
      exact (hostAccess_cases (.inr rfl)).imp_right fun ⟨hr, hw⟩ => ⟨hr, width, addr, v, ts, .inr rfl, hw⟩
    | dispatcher => exact .inl (.next _)
    | rxFrame => exact .inl (.next _)
    | rxError => exact .inl (.next _)
    | blockReset => exact .inl (.next _)

/-- Settles O7: `step_busError` and its converse `step_answers_or_busError`; the registers that ignore a write are
`writeWindow_ignored`'s (R30, R47, R168). -/
theorem busFaults : Obligations.BusFaults := by
  unfold Obligations.BusFaults
  refine ⟨fun s width addr v ts hag hlo hhi hbad hwidth => ?_, fun s r hr => ?_,
    fun s off v ts hp hlt h4 hcmd h0 h1 hirq hag => ?_, fun s r hr => ?_⟩
  · refine step_busError hag (fun hw => ?_) ((reaches_iff ..).mpr (by omega))
    obtain ⟨rfl, -, h4, -⟩ := (wordAccess_iff ..).mp hw
    exact hbad ⟨rfl, h4⟩
  · obtain ⟨t, ht⟩ | ⟨-, width, addr, v, ts, hag, hw⟩ := step_answers_or_busError s
    · rw [ht] at hr; cases hr
    · rw [wordAccess_iff] at hw
      exact ⟨width, addr, v, ts, hag, fun ⟨h1, h2, h3, h4⟩ => hw ⟨h1, h3, h2, h4⟩⟩
  · rw [step_write hp (by omega) h4 hag, writeWindow_ignored hlt hcmd h0 h1 hirq]
  · obtain ⟨t, ht⟩ | ⟨hf, -⟩ := step_answers_or_busError s
    · rw [ht] at hr; cases hr
    · rw [hf] at hr; cases hr

end Sys2Proof.Machine

/-! PROOFS. The status words as numbers (R20, R26 to R28, R172), the bits that read 0 (R22, R30), the XBUF window (R29,
R46), and the invariant of the reset state (R181). -/

namespace Sys2Proof.Machine

variable {s t : State}

/-! ### The words as numbers (R20, R26 to R28) -/

theorem evNotEmpty_toNat (s : State) : (evNotEmpty s).toNat = if s.events = [] then 0 else 1 := by
  cases he : s.events <;> simp [evNotEmpty, evCount, he]

theorem evFull_toNat (s : State) : (evFull s).toNat = if s.events.length = s.params.evqDepth then 1 else 0 := by
  rw [evFull, evCount]
  split <;> simp [*]

/-- EVCOUNT fits its eight bits: the FIFO holds at most EVQ_DEPTH ≤ 255 events (R6, R39). -/
theorem events_length_lt (h : Invariant s) : s.events.length < 2 ^ 8 := by
  have hfifo := h.fifo
  have hdepth := h.params.2.2.1.2
  simp only [evCount] at hfifo
  omega

/-- A field put above a word whose value is known and leaves the field's bits free. -/
theorem toNat_or_field_of_eq {n m k : Nat} {x : Word} (hx : x.toNat = m) (y : BitVec n) (hm : m < 2 ^ k)
    (hn : n + k ≤ 32) : (x ||| y.setWidth 32 <<< k).toNat = m + 2 ^ k * y.toNat := by
  rw [toNat_or_field x y k (hx ▸ hm) hn, hx]

/-- A flag put above a word whose value is known and leaves the flag's bit free. -/
theorem toNat_or_bit32_of_eq {m k : Nat} {x : Word} (hx : x.toNat = m) (b : Bool) (hm : m < 2 ^ k) (hk : 1 + k ≤ 32) :
    (x ||| bit32 b <<< k).toNat = m + 2 ^ k * b.toNat := by
  rw [toNat_or_bit32 x b k (hx ▸ hm) hk, hx]

/-- STATUS as a number: every field is put above those before it (R20). -/
theorem statusWord_toNat (h : Invariant s) :
    (statusWord s).toNat =
      (errCode s.err).toNat + 2 ^ 4 * s.run.toNat + 2 ^ 5 * s.rxerr.toNat + 2 ^ 6 * (evNotEmpty s).toNat +
        2 ^ 7 * (evFull s).toNat + 2 ^ 8 * s.events.length + 2 ^ 16 * s.ownaddr.toNat := by
  have hcount : (BitVec.ofNat 8 (evCount s)).toNat = s.events.length := by
    rw [BitVec.toNat_ofNat]
    exact Nat.mod_eq_of_lt (events_length_lt h)
  have herr := (errCode s.err).isLt
  have hrun := s.run.toNat_le
  have hrxerr := s.rxerr.toNat_le
  have hevne := (evNotEmpty s).toNat_le
  have hevfull := (evFull s).toNat_le
  have hlen := events_length_lt h
  have w0 := toNat_setWidth_le (w := 32) (errCode s.err) (by decide)
  have w4 := toNat_or_bit32_of_eq (k := 4) w0 s.run (by omega) (by decide)
  have w5 := toNat_or_bit32_of_eq (k := 5) w4 s.rxerr (by omega) (by decide)
  have w6 := toNat_or_bit32_of_eq (k := 6) w5 (evNotEmpty s) (by omega) (by decide)
  have w7 := toNat_or_bit32_of_eq (k := 7) w6 (evFull s) (by omega) (by decide)
  have w8 := toNat_or_field_of_eq (k := 8) w7 (BitVec.ofNat 8 (evCount s)) (by omega) (by decide)
  rw [hcount] at w8
  exact toNat_or_field_of_eq (k := 16) w8 s.ownaddr (by omega) (by decide)

/-- Bits 31:30 of STATUS read 0 (R20). -/
theorem statusWord_lt (h : Invariant s) : (statusWord s).toNat < 2 ^ 30 := by
  have herr := (errCode s.err).isLt
  have hrun := s.run.toNat_le
  have hrxerr := s.rxerr.toNat_le
  have hevne := (evNotEmpty s).toNat_le
  have hevfull := (evFull s).toNat_le
  have hlen := events_length_lt h
  have hown := s.ownaddr.isLt
  rw [statusWord_toNat h]
  omega

/-- FREECHUNKS as a number: NCHUNK fits its sixteen bits (R6, R26). -/
theorem freeChunksWord_toNat (hp : s.params.Legal) : (freeChunksWord s).toNat = freeChunks s := by
  have hle : freeChunks s ≤ s.params.nchunk := Nat.sub_le ..
  have hn : s.params.nchunk ≤ 65535 := hp.2.1.2
  rw [freeChunksWord, toNat_setWidth_le _ (by decide), BitVec.toNat_ofNat, Nat.mod_eq_of_lt (by omega)]

/-- CFG as a number: the parameters fit their fields (R6, R27). -/
theorem cfgWord_toNat (hp : s.params.Legal) :
    (cfgWord s).toNat = s.params.nslot + 2 ^ 8 * s.params.evqDepth + 2 ^ 16 * s.params.nchunk := by
  obtain ⟨⟨-, hslot⟩, ⟨-, hchunk⟩, ⟨-, hdepth⟩, -⟩ := hp
  have hs : ((BitVec.ofNat 4 s.params.nslot).setWidth 32).toNat = s.params.nslot := by
    rw [toNat_setWidth_le _ (by decide), BitVec.toNat_ofNat, Nat.mod_eq_of_lt (by omega)]
  have w8 := toNat_or_field_of_eq (k := 8) hs (BitVec.ofNat 8 s.params.evqDepth) (by omega) (by decide)
  rw [BitVec.toNat_ofNat, Nat.mod_eq_of_lt (by omega : s.params.evqDepth < 2 ^ 8)] at w8
  have w16 := toNat_or_field_of_eq (k := 16) w8 (BitVec.ofNat 16 s.params.nchunk) (by omega) (by decide)
  rwa [BitVec.toNat_ofNat, Nat.mod_eq_of_lt (by omega : s.params.nchunk < 2 ^ 16)] at w16

/-- IRQEN as a number (R28). -/
theorem irqenWord_toNat (s : State) : (irqenWord s).toNat = s.evie.toNat + 2 * s.errie.toNat :=
  toNat_or_bit32_of_eq (k := 1) (bit32_toNat s.evie) s.errie (Nat.lt_succ_of_le s.evie.toNat_le) (by decide)

/-- Settles O10: `statusWord_toNat`, with EVNE and EVFULL as views of the FIFO. -/
theorem statusRead : Obligations.StatusRead := by
  unfold Obligations.StatusRead
  intro s h
  rw [← evNotEmpty_toNat, ← evFull_toNat]
  exact statusWord_toNat h

/-- Settles O11: the two words as numbers; at the offsets of FREECHUNKS and of CFG a write is ignored. -/
theorem freechunksAndCfg : Obligations.FreechunksAndCfg := by
  unfold Obligations.FreechunksAndCfg
  refine ⟨fun s h => ⟨?_, cfgWord_toNat h.params⟩, fun p hp => ?_, by decide, fun s w => ⟨rfl, rfl⟩⟩
  · have hfree : (readWindow 0x038 s).toNat = freeChunks s := freeChunksWord_toNat h.params
    rw [hfree]
    exact Nat.sub_add_cancel h.pool
  · have hfree : (readWindow 0x038 (State.powerOn p)).toNat = freeChunks (State.powerOn p) := freeChunksWord_toNat hp
    rw [hfree, freeChunks, usedChunks_powerOn, Nat.sub_zero]
    rfl

/-! ### IRQEN and IRQ (R28, R172) -/

theorem getLsbD_zero_eq (w : Word) : w.getLsbD 0 = decide (w.toNat % 2 = 1) := by
  rw [BitVec.getLsbD, Nat.testBit_zero]

theorem getLsbD_one_eq (w : Word) : w.getLsbD 1 = decide (w.toNat / 2 % 2 = 1) := by
  rw [BitVec.getLsbD, Nat.testBit_succ, Nat.testBit_zero]

theorem setIrqen_eq (w : Word) (s : State) :
    setIrqen w s = { s with evie := decide (w.toNat % 2 = 1), errie := decide (w.toNat / 2 % 2 = 1) } := by
  rw [setIrqen, getLsbD_zero_eq, getLsbD_one_eq]

theorem writeWindow_irqen (w : Word) (s : State) : writeWindow 0x040 w s = .next (setIrqen w s) := rfl

/-- IRQEN reads back the two bits written (R28). -/
theorem irqenWord_setIrqen (w : Word) (s : State) : (irqenWord (setIrqen w s)).toNat = w.toNat % 4 := by
  rw [irqenWord_toNat]
  show (w.toNat.testBit 0).toNat + 2 * (w.toNat.testBit 1).toNat = _
  rw [Nat.toNat_testBit, Nat.toNat_testBit]
  omega

theorem irq_iff (s : State) :
    irq s = true ↔ (s.evie = true ∧ 0 < s.events.length) ∨ (s.errie = true ∧ s.rxerr = true) := by
  simp only [irq, Bool.or_eq_true, Bool.and_eq_true, decide_eq_true_eq]
  rfl

/-- IRQ is 0 while neither source is up (R172). -/
theorem irq_of_no_source (he : s.events = []) (hr : s.rxerr = false) : irq s = false := by
  rw [← Bool.not_eq_true, irq_iff, he, hr]
  simp

/-- Settles O12: the write of IRQEN, its readback, and IRQ through EV_POP and IF_UP. -/
theorem irqenAndIrq : Obligations.IrqenAndIrq := by
  unfold Obligations.IrqenAndIrq
  refine ⟨fun s w ts hp hag => ?_, fun s w t hw => ?_, by decide, irq_iff, fun s t hlen hrx hx => ?_,
    fun s t hev hx hok => ?_⟩
  · rw [step_write hp (by decide) (by decide) hag, writeWindow_irqen, setIrqen_eq]
  · rw [writeWindow_irqen] at hw
    cases hw
    exact irqenWord_setIrqen w s
  · obtain ⟨he, rfl⟩ | ⟨e, es, he, rfl⟩ := execEvPop_cases hx
    · exact irq_of_no_source he hrx
    · rw [he, List.length_cons] at hlen
      exact irq_of_no_source (List.length_eq_zero_iff.mp (by omega : es.length = 0)) hrx
  · obtain rfl | ⟨-, rfl⟩ := execIfUp_cases hx
    · cases hok
    · exact irq_of_no_source hev rfl

/-! ### The XBUF window (R29, R46) -/

theorem xbufWord_toNat (s : State) (j : Nat) :
    (xbufWord s j).toNat = (xread s j).toNat + 2 ^ 8 * (xread s (j + 1)).toNat + 2 ^ 16 * (xread s (j + 2)).toNat +
      2 ^ 24 * (xread s (j + 3)).toNat := by
  have h0 := (xread s j).isLt
  have h1 := (xread s (j + 1)).isLt
  have h2 := (xread s (j + 2)).isLt
  have w0 := toNat_setWidth_le (w := 32) (xread s j) (by decide)
  have w8 := toNat_or_field_of_eq (k := 8) w0 (xread s (j + 1)) (by omega) (by decide)
  have w16 := toNat_or_field_of_eq (k := 16) w8 (xread s (j + 2)) (by omega) (by decide)
  exact toNat_or_field_of_eq (k := 24) w16 (xread s (j + 3)) (by omega) (by decide)

theorem readWindow_xbuf (j : Nat) (s : State) : readWindow (0x100 + j) s = xbufWord s j := by
  rw [readWindow, xbufWindow, if_pos (Nat.le_add_right ..), Nat.add_sub_cancel_left]

theorem writeWindow_xbuf (j : Nat) (w : Word) (s : State) :
    writeWindow (0x100 + j) w s = .next (xwriteRange j (wordBytes w) s) := by
  rw [writeWindow, xbufWindow, if_pos (Nat.le_add_right ..), Nat.add_sub_cancel_left]

/-- A write of XBUF changes XBUF and nothing else (R29, R115). -/
theorem xwriteRange_eq (off : Nat) (b : List Byte) (s : State) :
    xwriteRange off b s = { s with xbuf := (xwriteRange off b s).xbuf } := by
  induction b generalizing off s with
  | nil => rfl
  | cons x b ih =>
    have hx : xwrite off x s = { s with xbuf := (xwrite off x s).xbuf } := by
      unfold xwrite
      split <;> rfl
    rw [xwriteRange, ih, hx]

/-- Byte `k` of a word is its bits 8k+7 to 8k (R46). -/
theorem wordBytes_getElem_toNat (w : Word) {k : Nat} (hk : k < (wordBytes w).length) :
    (wordBytes w)[k].toNat = w.toNat / 2 ^ (8 * k) % 2 ^ 8 := by
  have : k < 4 := hk
  interval_cases k <;> exact toNat_bitsOf w _ 8

/-- A byte of the word just written to XBUF (R46). -/
theorem xread_writeWord (s : State) (w : Word) {j k : Nat} (hj : j < 64) (hk : k < 4) :
    (xread (xwriteRange (4 * j) (wordBytes w) s) (4 * j + k)).toNat = w.toNat / 2 ^ (8 * k) % 2 ^ 8 := by
  have hroom : 4 * j + (wordBytes w).length ≤ xbufSize := by
    show 4 * j + 4 ≤ 256
    omega
  have hlen : k < (wordBytes w).length := hk
  rw [xread_xwriteRange_in _ _ hlen hroom, wordBytes_getElem_toNat]

/-- The word just written reads back. -/
theorem xbufWord_writeWord (s : State) (w : Word) {j : Nat} (hj : j < 64) :
    xbufWord (xwriteRange (4 * j) (wordBytes w) s) (4 * j) = w := by
  have hw := w.isLt
  have h0 := xread_writeWord s w hj (k := 0) (by decide)
  rw [Nat.add_zero] at h0
  apply BitVec.eq_of_toNat_eq
  rw [xbufWord_toNat, h0, xread_writeWord s w hj (by decide), xread_writeWord s w hj (by decide),
    xread_writeWord s w hj (by decide)]
  omega

/-- Settles O13 (`xbufWindow` is a name of the model): the write is `xwriteRange` of the word's bytes, the read is
`xbufWord`. -/
theorem xbufWindow_roundTrip : Obligations.XbufWindow := by
  unfold Obligations.XbufWindow
  intro s j ts hp hj
  refine ⟨fun w hag => ?_, fun hag => ?_⟩
  · rw [Nat.add_assoc] at hag
    refine ⟨xwriteRange (4 * j) (wordBytes w) { s with agenda := ts }, ?_, xwriteRange_eq .., fun k hk => ?_,
      fun b hb => ?_, ?_⟩
    · rw [step_write hp (by omega) (by omega) hag, writeWindow_xbuf]
    · exact xread_writeWord _ w hj hk
    · exact xread_xwriteRange_out (4 * j) (wordBytes w) (by show b < 4 * j ∨ 4 * j + 4 ≤ b; omega)
    · rw [readWindow_xbuf, xbufWord_writeWord _ w hj]
  · rw [Nat.add_assoc] at hag
    refine ⟨readWindow (0x100 + 4 * j) s, step_read hp (by omega) (by omega) hag, ?_⟩
    rw [readWindow_xbuf, xbufWord_toNat]

/-! ### The bits that read 0 (R22, R30) -/

/-- Bits a mask covers are 0 where the word is 0 under the mask. -/
theorem bits_eq_zero_of_and {w m : Word} (h : w &&& m = 0) {lo n : Nat} (hm : bitsOf m lo n = BitVec.allOnes n) :
    w.toNat / 2 ^ lo % 2 ^ n = 0 := by
  have hw : bitsOf w lo n = 0 := by
    rw [← BitVec.and_allOnes (x := bitsOf w lo n), ← hm, ← bitsOf_and, h, bitsOf]
    simp
  rw [← toNat_bitsOf, hw]
  rfl

/-- Settles O14: the reserved offsets, and the reserved bits from each word as a number. -/
theorem reservedBits : Obligations.ReservedBits := by
  unfold Obligations.ReservedBits
  refine ⟨fun s off w h1 h2 => ⟨readWindow_reserved h1 h2 s, writeWindow_reserved h1 h2 w s⟩, fun s h => ?_,
    fun s w w' hw => ?_⟩
  · obtain ⟨he0, he1⟩ := h.evRegs
    have hev0 := s.ev0.isLt
    have hev1 := s.ev1.isLt
    refine ⟨statusWord_lt h, ?_, ?_, bits_eq_zero_of_and he0 (by decide), ?_, ?_, ?_, ?_⟩
    · exact (toNat_setWidth_le s.crcacc (by decide)).trans_lt s.crcacc.isLt
    · have := bits_eq_zero_of_and he0 (lo := 30) (n := 2) (by decide)
      show s.ev0.toNat < 2 ^ 30
      omega
    · have := bits_eq_zero_of_and he1 (lo := 24) (n := 8) (by decide)
      show s.ev1.toNat < 2 ^ 24
      omega
    · exact (toNat_setWidth_le (BitVec.ofNat 16 (freeChunks s)) (by decide)).trans_lt (BitVec.isLt _)
    · have hslot := h.params.1.2
      have hcfg : (readWindow 0x03C s).toNat = _ := cfgWord_toNat h.params
      omega
    · have hirq : (readWindow 0x040 s).toNat = _ := irqenWord_toNat s
      have hevie := s.evie.toNat_le
      have herrie := s.errie.toNat_le
      omega
  · rw [writeWindow_irqen, writeWindow_irqen, setIrqen_eq, setIrqen_eq]
    have h0 : w.toNat % 2 = w'.toNat % 2 := by omega
    have h1 : w.toNat / 2 % 2 = w'.toNat / 2 % 2 := by omega
    rw [h0, h1]

/-- Settles O58: State.reset is power-on with the defaults of R6, which are legal (R181). -/
theorem resetInv : Obligations.ResetInv := by
  unfold Obligations.ResetInv
  exact ⟨invariant_powerOn (by decide), fun p hp => invariant_powerOn hp⟩

end Sys2Proof.Machine

/-! PROOFS. Who writes what: the registrations and capacities through the dispatcher (R31, R37, R52), what each command
writes and leaves (R42), and from these every step of every agent. -/

namespace Sys2Proof.Machine

variable {s t u : State}

/-! ### MAXCAP and registrations through the shared operations (R31, R37) -/

/-- The two slots have the same PROTO, PORT and REMOTE. -/
abbrev SameRegistration (x y : Slot) : Prop := x.proto = y.proto ∧ x.port = y.port ∧ x.remote = y.remote

/-- Every chain's MAXCAP and every slot's PROTO, PORT and REMOTE are as they were. -/
abbrev SameTables (s t : State) : Prop :=
  (∀ c, (chainAt t c).maxcap = (chainAt s c).maxcap) ∧ ∀ i, SameRegistration (slotAt t i) (slotAt s i)

theorem SameTables.refl (s : State) : SameTables s s := ⟨fun _ => rfl, fun _ => ⟨rfl, rfl, rfl⟩⟩

theorem SameTables.trans (h : SameTables s t) (k : SameTables t u) : SameTables s u :=
  ⟨fun c => (k.1 c).trans (h.1 c), fun i =>
    have ⟨a1, a2, a3⟩ := h.2 i
    have ⟨b1, b2, b3⟩ := k.2 i
    ⟨b1.trans a1, b2.trans a2, b3.trans a3⟩⟩

/-- A chain written with its own MAXCAP. -/
theorem sameTables_setChain {c : Nat} {x : Chain} (hx : x.maxcap = (chainAt s c).maxcap) :
    SameTables s (setChain c x s) := by
  refine ⟨fun d => ?_, (SameTables.refl s).2⟩
  rw [chainAt_setChain]
  split
  · rename_i hd
    rw [hx, hd.1]
  · rfl

/-- A slot written with its own registration. -/
theorem sameTables_setSlot {i : Nat} {x : Slot} (hx : SameRegistration x (slotAt s i)) :
    SameTables s (setSlot i x s) := by
  refine ⟨(SameTables.refl s).1, fun j => ?_⟩
  rw [slotAt_setSlot]
  split
  · rename_i hj
    exact hj.1 ▸ hx
  · exact ⟨rfl, rfl, rfl⟩

theorem sameTables_chainClear (c : Nat) (s : State) : SameTables s (chainClear c s) := sameTables_setChain rfl

theorem sameTables_chainRead (c n : Nat) (s : State) : SameTables s (chainRead c n s) := sameTables_setChain rfl

theorem sameTables_chainWrite {c : Nat} {b : List Byte} (h : chainWrite c b s = .ok t) : SameTables s t := by
  obtain ⟨-, ⟨-, rfl⟩ | ⟨-, rfl⟩⟩ := chainWrite_ok h
  · exact .refl _
  · exact sameTables_setChain rfl

theorem sameTables_chainMove {d c : Nat} (h : chainMove d c s = .ok t) : SameTables s t := by
  obtain ⟨-, rfl⟩ | ⟨-, rfl⟩ := chainMove_ok h
  · exact .refl _
  · have hd : SameTables s (setChain d { chainAt s d with chunks := (chainAt s d).chunks ++ (chainAt s c).chunks } s) :=
      sameTables_setChain rfl
    exact hd.trans (sameTables_setChain (hd.1 c).symm)

theorem sameTables_abortAsm (i : Nat) (s : State) : SameTables s (abortAsm i s) :=
  have hs : SameTables s (setSlot i { slotAt s i with asmActive := false, asmErr := false } s) :=
    sameTables_setSlot ⟨rfl, rfl, rfl⟩
  hs.trans (sameTables_chainClear (asmChain i) _)

/-! ### MAXCAP and registrations through the dispatcher (R52) -/

theorem sameTables_appendAsm (i : Nat) (b : List Byte) (s : State) : SameTables s (appendAsm i b s) := by
  unfold appendAsm
  split
  · exact .refl s
  · split
    · rename_i hw
      exact (sameTables_chainWrite hw).trans (sameTables_setSlot ⟨rfl, rfl, rfl⟩)
    · exact sameTables_setSlot ⟨rfl, rfl, rfl⟩
    · exact sameTables_setSlot ⟨rfl, rfl, rfl⟩

theorem sameTables_post (e : Event) (s : State) : SameTables s (post e s) := .refl s

theorem sameTables_transferFails (f : Frame) (i : Nat) (v : Half) (r : Byte) (s : State) :
    SameTables s (transferFails f i v r s) := by
  unfold transferFails
  dsimp only
  split
  · exact sameTables_chainClear (asmChain i) s
  · exact sameTables_chainClear (asmChain i) s

theorem sameTables_transferDone (f : Frame) (i : Nat) (q : Seq) (v : Half) (s : State) :
    SameTables s (transferDone f i q v s) :=
  sameTables_setSlot (i := i) (x := { slotAt s i with rxSeq := q }) ⟨rfl, rfl, rfl⟩

theorem sameTables_asmEnds (i : Nat) (s : State) : SameTables s (asmEnds i s) :=
  sameTables_setSlot ⟨rfl, rfl, rfl⟩

theorem sameTables_finishAsm (f : Frame) (i : Nat) (s : State) : SameTables s (finishAsm f i s) := by
  have hfail : ∀ v r, SameTables s (asmEnds i (transferFails f i v r s)) := fun v r =>
    (sameTables_transferFails f i v r s).trans (sameTables_asmEnds i _)
  unfold finishAsm
  dsimp only
  split
  · exact hfail _ _
  · split
    · exact hfail _ _
    · split
      · exact hfail _ _
      · split
        · rename_i hm
          exact ((sameTables_chainMove hm).trans (sameTables_transferDone ..)).trans (sameTables_asmEnds i _)
        · exact hfail _ _
        · exact hfail _ _

theorem sameTables_handleSingle {f : Frame} (h : handleSingle f s = some t) : SameTables s t := by
  obtain ⟨i, -, rfl⟩ := Option.map_eq_some_iff.mp h
  have ha := sameTables_abortAsm i s
  dsimp only
  split
  · rename_i hw
    have haw := ha.trans (sameTables_chainWrite hw)
    split
    · rename_i hm
      exact (haw.trans (sameTables_chainMove hm)).trans (sameTables_transferDone ..)
    · exact haw.trans (sameTables_transferFails ..)
    · exact haw.trans (sameTables_transferFails ..)
  · exact ha.trans (sameTables_transferFails ..)
  · exact ha.trans (sameTables_transferFails ..)

theorem sameTables_setRole (i : Nat) (r : Role) (s : State) : SameTables s (setRole i r s) :=
  sameTables_setSlot ⟨rfl, rfl, rfl⟩

theorem sameTables_startAsm (f : Frame) (i : Nat) (s : State) : SameTables s (startAsm f i s) :=
  sameTables_setSlot ⟨rfl, rfl, rfl⟩

/-- No handler changes a capacity or a registration: what it writes of a slot is ROLE, RX_SEQ and the assembly. -/
theorem sameTables_handle {f : Frame} (h : handle f s = some t) : SameTables s t := by
  unfold handle at h
  split at h
  · obtain ⟨i, -, rfl⟩ := Option.map_eq_some_iff.mp h
    exact ((sameTables_abortAsm i s).trans (sameTables_startAsm f i _)).trans (sameTables_appendAsm ..)
  · unfold handleNext at h
    split at h
    · cases h
    · split at h <;> cases h
      exact sameTables_appendAsm ..
  · unfold handleLast at h
    split at h
    · cases h
    · split at h <;> cases h
      exact (sameTables_appendAsm ..).trans (sameTables_finishAsm ..)
  · exact sameTables_handleSingle h
  · unfold handleConnect at h
    dsimp only at h
    split at h
    · obtain ⟨i, -, rfl⟩ := Option.map_eq_some_iff.mp h
      split
      · exact sameTables_setRole i .connected s
      · exact .refl s
    · obtain ⟨i, -, rfl⟩ := Option.map_eq_some_iff.mp h
      exact .refl s
  · obtain ⟨i, -, rfl⟩ := Option.map_eq_some_iff.mp h
    exact ((sameTables_abortAsm i s).trans (sameTables_setRole i .closed _)).trans (sameTables_post ..)
  · obtain ⟨i, -, rfl⟩ := Option.map_eq_some_iff.mp h
    split
    · exact .refl s
    · exact .refl s
  · obtain ⟨i, -, rfl⟩ := Option.map_eq_some_iff.mp h
    exact .refl s

theorem sameTables_take (f : Frame) (s : State) : SameTables s (take f s) := .refl s

theorem sameTables_receive (f : Frame) (s : State) : SameTables s (receive f s) := by
  obtain hd | ⟨t, -, hh, ht⟩ := receive_cases f s
  · rw [hd]; exact .refl s
  · rw [ht]; exact (sameTables_handle hh).trans (sameTables_take f t)

theorem sameTables_dispatcherTurn (s : State) : SameTables s (dispatcherTurn s) := by
  obtain he | ⟨f, fs, -, -, -, he⟩ := dispatcherTurn_cases s
  · rw [he]; exact .refl s
  · rw [he]; exact sameTables_receive f { s with rxin := fs }

/-- `t` is `s` but for what the dispatcher writes: the tables, the event FIFO, RXIN and the RX counters (R52). -/
abbrev OnlyReceived (s t : State) : Prop :=
  t = { s with
    slots := t.slots, chains := t.chains, events := t.events, rxin := t.rxin, rxframes := t.rxframes
    rxbytes := t.rxbytes, rxdrop := t.rxdrop }

theorem OnlyTable.onlyReceived (h : OnlyTable s t) : OnlyReceived s t := by
  unfold OnlyReceived
  rw [h]

theorem onlyReceived_receive (f : Frame) (fs : List Frame) (s : State) :
    OnlyReceived s (receive f { s with rxin := fs }) := by
  unfold OnlyReceived
  obtain hd | ⟨t, ht, -, he⟩ := receive_cases f { s with rxin := fs }
  · rw [hd]; rfl
  · rw [he, ht]; rfl

theorem onlyReceived_dispatcherTurn (s : State) : OnlyReceived s (dispatcherTurn s) := by
  unfold OnlyReceived
  obtain he | ⟨f, fs, -, -, -, he⟩ := dispatcherTurn_cases s
  · rw [he]
  · rw [he]; exact onlyReceived_receive f fs s

/-! ### Who writes what: the relation (R17, R19 to R22, R31, R37, R42) -/

/-- Every change from `s` to `t` of RUN, RXERR, OWNADDR, CRCACC, EV0, EV1, a MAXCAP or a registration is one the rules
name: `cmd i` says that the command `i` is run, `rxErr` that an RX device error is signalled. -/
structure NamedWrites (cmd : Instr → Prop) (rxErr : Prop) (s t : State) : Prop where
  run : t.run = s.run ∨ cmd .ifUp ∨ cmd .ifDown ∨ rxErr
  rxerr : t.rxerr = s.rxerr ∨ cmd .ifUp ∨ rxErr
  ownaddr : t.ownaddr = s.ownaddr ∨ cmd .ifUp
  crcacc : t.crcacc = s.crcacc ∨ cmd .crcInit ∨ ∃ len, cmd (.crcUpdate len)
  evRegs : (t.ev0 = s.ev0 ∧ t.ev1 = s.ev1) ∨ cmd .evPop
  maxcap : ∀ c, (chainAt t c).maxcap = (chainAt s c).maxcap ∨
    ∃ (ch : BitVec 4) (m : Half), ch.toNat = c ∧ cmd (.bufInit ch m)
  registration : ∀ i, SameRegistration (slotAt t i) (slotAt s i) ∨
    ∃ slot : BitVec 4, slot.toNat = i ∧
      (cmd (.slotFree slot) ∨ ∃ role proto port, cmd (.slotSet slot role proto port))

theorem NamedWrites.refl (cmd : Instr → Prop) (rxErr : Prop) (s : State) : NamedWrites cmd rxErr s s where
  run := .inl rfl
  rxerr := .inl rfl
  ownaddr := .inl rfl
  crcacc := .inl rfl
  evRegs := .inl ⟨rfl, rfl⟩
  maxcap _ := .inl rfl
  registration _ := .inl ⟨rfl, rfl, rfl⟩

/-- What holds of one command holds where that command is one of those run. -/
theorem NamedWrites.of_command {i : Instr} {cmd : Instr → Prop} (h : NamedWrites (i = ·) False s t) (hi : cmd i)
    (rxErr : Prop) : NamedWrites cmd rxErr s t :=
  have hc : ∀ {j}, i = j → cmd j := fun he => he ▸ hi
  { run := h.run.imp_right (.imp hc (.imp hc False.elim))
    rxerr := h.rxerr.imp_right (.imp hc False.elim)
    ownaddr := h.ownaddr.imp_right hc
    crcacc := h.crcacc.imp_right (.imp hc fun ⟨len, hl⟩ => ⟨len, hc hl⟩)
    evRegs := h.evRegs.imp_right hc
    maxcap := fun c => (h.maxcap c).imp_right fun ⟨ch, m, he, hm⟩ => ⟨ch, m, he, hc hm⟩
    registration := fun j => (h.registration j).imp_right fun ⟨slot, he, hs⟩ =>
      ⟨slot, he, hs.imp hc fun ⟨role, proto, port, hp⟩ => ⟨role, proto, port, hc hp⟩⟩ }

/-- What the dispatcher may write holds none of these (R52). -/
theorem NamedWrites.of_onlyReceived (cmd : Instr → Prop) (rxErr : Prop) (h : OnlyReceived s t)
    (hs : SameTables s t) : NamedWrites cmd rxErr s t where
  run := .inl (by rw [h])
  rxerr := .inl (by rw [h])
  ownaddr := .inl (by rw [h])
  crcacc := .inl (by rw [h])
  evRegs := .inl ⟨by rw [h], by rw [h]⟩
  maxcap c := .inl (hs.1 c)
  registration i := .inl (hs.2 i)

/-! ### What a command writes and leaves (R41, R42, R115) -/

/-- What every command leaves: the host's registers, the parameters, RXIN, the schedule and the reset epoch. -/
structure HostKept (s t : State) : Prop where
  params : t.params = s.params
  arg0 : t.arg0 = s.arg0
  arg1 : t.arg1 = s.arg1
  lastcmd : t.lastcmd = s.lastcmd
  evie : t.evie = s.evie
  errie : t.errie = s.errie
  rxin : t.rxin = s.rxin
  agenda : t.agenda = s.agenda
  readData : t.readData = s.readData
  resets : t.resets = s.resets

/-- What the command `i` may change from `s` to `t`. Of XBUF that is the range of BUF_READ alone (R115). -/
structure CommandEffect (i : Instr) (s t : State) : Prop extends NamedWrites (i = ·) False s t, HostKept s t where
  xbuf : ∀ b, xread t b = xread s b ∨
    ∃ ch len, i = .bufRead ch len ∧ s.arg0.toNat ≤ b ∧ b < s.arg0.toNat + len.toNat

theorem CommandEffect.refl (i : Instr) (s : State) : CommandEffect i s s where
  toNamedWrites := .refl _ _ s
  toHostKept := ⟨rfl, rfl, rfl, rfl, rfl, rfl, rfl, rfl, rfl, rfl⟩
  xbuf _ := .inl rfl

theorem CommandEffect.fail (i : Instr) (e : ErrCode) (s : State) : CommandEffect i s (fail e s) :=
  { CommandEffect.refl i s with }

/-- The chains written, and no capacity changed. -/
theorem CommandEffect.of_tables (i : Instr) (h : OnlyTable s t) (hs : SameTables s t) : CommandEffect i s t where
  toNamedWrites := .of_onlyReceived _ _ h.onlyReceived hs
  params := by rw [h]
  arg0 := by rw [h]
  arg1 := by rw [h]
  lastcmd := by rw [h]
  evie := by rw [h]
  errie := by rw [h]
  rxin := by rw [h]
  agenda := by rw [h]
  readData := by rw [h]
  resets := by rw [h]
  xbuf b := .inl (xread_congr (by rw [h]) (by rw [h]) b)

theorem execCrcUpdate_effect {len : Half} (hx : execCrcUpdate len s = .next t) :
    CommandEffect (.crcUpdate len) s t := by
  obtain rfl | ⟨-, rfl⟩ := execCrcUpdate_cases hx
  · exact .fail ..
  · exact { CommandEffect.refl _ s with crcacc := .inr (.inr ⟨len, rfl⟩) }

/-- BUF_INIT gives its chain, and no other, a capacity (R37, R113). -/
theorem execBufInit_effect {ch : BitVec 4} {m : Half} (hx : execBufInit ch m s = .next t) :
    CommandEffect (.bufInit ch m) s t := by
  obtain rfl | rfl | ⟨-, -, rfl⟩ := execBufInit_cases hx
  · exact .fail ..
  · exact .fail ..
  · refine { CommandEffect.refl _ s with maxcap := fun c => ?_ }
    by_cases hc : ch.toNat = c
    · exact .inr ⟨ch, m, hc, rfl⟩
    · exact .inl (congrArg Chain.maxcap (chainAt_setChain_ne _ hc))

theorem execBufWrite_effect {ch : BitVec 4} {len : Half} (hx : execBufWrite ch len s = .next t) :
    CommandEffect (.bufWrite ch len) s t := by
  obtain hfail | ⟨-, -, -, u, hu, rfl⟩ := execBufWrite_cases hx
  · obtain rfl | rfl | rfl | rfl := hfail <;> exact .fail ..
  · exact { CommandEffect.of_tables _ (onlyTable_chainWrite hu) (sameTables_chainWrite hu) with }

/-- BUF_READ writes at most LEN bytes of XBUF, from ARG0 on (R115). -/
theorem execBufRead_effect {ch : BitVec 4} {len : Half} (hx : execBufRead ch len s = .next t) :
    CommandEffect (.bufRead ch len) s t := by
  obtain rfl | rfl | ⟨-, -, -, rfl⟩ := execBufRead_cases hx
  · exact .fail ..
  · exact .fail ..
  · have hread : CommandEffect (.bufRead ch len) s (chainRead ch.toNat len.toNat s) :=
      .of_tables _ rfl (sameTables_chainRead ..)
    have hlen : (chainReadBytes ch.toNat len.toNat s).length ≤ len.toNat := length_readChunks_le ..
    generalize chainReadBytes ch.toNat len.toNat s = r at hlen
    have hnamed : NamedWrites (.bufRead ch len = ·) False s
        (xwriteRange s.arg0.toNat r (chainRead ch.toNat len.toNat s)) := by
      rw [xwriteRange_eq]; exact { hread with }
    have hkept : HostKept s (xwriteRange s.arg0.toNat r (chainRead ch.toNat len.toNat s)) := by
      rw [xwriteRange_eq]; exact { hread with }
    refine { hnamed, hkept with xbuf := fun b => ?_ }
    by_cases hb : s.arg0.toNat ≤ b ∧ b < s.arg0.toNat + len.toNat
    · exact .inr ⟨ch, len, rfl, hb⟩
    · exact .inl (xread_xwriteRange_out _ r (by omega))

theorem execBufMove_effect {dst src : BitVec 4} (hx : execBufMove dst src s = .next t) :
    CommandEffect (.bufMove dst src) s t := by
  obtain hfail | ⟨-, -, -, -, -, u, hu, rfl⟩ := execBufMove_cases hx
  · obtain rfl | rfl | rfl := hfail <;> exact .fail ..
  · exact { CommandEffect.of_tables _ (onlyTable_chainMove hu) (sameTables_chainMove hu) with }

theorem execBufClear_effect {ch : BitVec 4} (hx : execBufClear ch s = .next t) :
    CommandEffect (.bufClear ch) s t := by
  obtain rfl | rfl | ⟨-, -, rfl⟩ := execBufClear_cases hx
  · exact .fail ..
  · exact .fail ..
  · have hc : CommandEffect (.bufClear ch) s (chainClear ch.toNat s) := .of_tables _ rfl (sameTables_chainClear ..)
    exact { hc with }

theorem execBufIsfull_effect {ch : BitVec 4} (hx : execBufIsfull ch s = .next t) :
    CommandEffect (.bufIsfull ch) s t := by
  obtain rfl | ⟨-, rfl⟩ := execBufIsfull_cases hx
  · exact .fail ..
  · exact { CommandEffect.refl _ s with }

theorem execBufAvail_effect {ch : BitVec 4} (hx : execBufAvail ch s = .next t) :
    CommandEffect (.bufAvail ch) s t := by
  obtain rfl | ⟨-, rfl⟩ := execBufAvail_cases hx
  · exact .fail ..
  · exact { CommandEffect.refl _ s with }

theorem execBufSize_effect {ch : BitVec 4} (hx : execBufSize ch s = .next t) :
    CommandEffect (.bufSize ch) s t := by
  obtain rfl | ⟨-, rfl⟩ := execBufSize_cases hx
  · exact .fail ..
  · exact { CommandEffect.refl _ s with }

/-- A registration changes its own slot only: SLOT_FREE and SLOT_SET end in one, after the chains are cleared (R124,
R125). -/
theorem CommandEffect.register {i : Instr} {slot : BitVec 4} (h : OnlyTable s t) (hs : SameTables s t)
    (hi : i = .slotFree slot ∨ ∃ role proto port, i = .slotSet slot role proto port) (role : Role) (proto : Proto)
    (port : Port) (remote : BusAddr) : CommandEffect i s (done (register slot.toNat role proto port remote t)) := by
  refine { CommandEffect.of_tables i h hs with registration := fun j => ?_ }
  by_cases hj : slot.toNat = j
  · exact .inr ⟨slot, hj, hi⟩
  · left
    rw [slotAt_done, Machine.register, slotAt_setSlot_ne _ hj]
    exact hs.2 j

theorem execSlotSet_effect {slot : BitVec 4} {role : BitVec 3} {proto : Proto} {port : Port}
    (hx : execSlotSet slot role proto port s = .next t) : CommandEffect (.slotSet slot role proto port) s t := by
  obtain hfail | ⟨r, -, -, -, -, -, rfl⟩ := execSlotSet_cases hx
  · obtain rfl | rfl := hfail <;> exact .fail ..
  · exact .register (onlyTable_abortAsm ..) (sameTables_abortAsm ..) (.inr ⟨role, proto, port, rfl⟩) ..

theorem execSlotFree_effect {slot : BitVec 4} (hx : execSlotFree slot s = .next t) :
    CommandEffect (.slotFree slot) s t := by
  obtain rfl | ⟨-, rfl⟩ := execSlotFree_cases hx
  · exact .fail ..
  · exact .register rfl ((sameTables_abortAsm ..).trans (sameTables_chainClear ..)) (.inl rfl) ..

theorem execSlotGet_effect {slot : BitVec 4} (hx : execSlotGet slot s = .next t) :
    CommandEffect (.slotGet slot) s t := by
  obtain rfl | ⟨-, rfl⟩ := execSlotGet_cases hx
  · exact .fail ..
  · exact { CommandEffect.refl _ s with }

theorem execIfUp_effect (hx : execIfUp s = .next t) : CommandEffect .ifUp s t := by
  obtain rfl | ⟨-, rfl⟩ := execIfUp_cases hx
  · exact .fail ..
  · exact { CommandEffect.refl _ s with run := .inr (.inl rfl), rxerr := .inr (.inl rfl), ownaddr := .inr rfl }

theorem execTxSend_effect {ty : FrameType} {port : Port} {seq : Seq} {len : BitVec 4}
    (hx : execTxSend ty port seq len s = .next t) : CommandEffect (.txSend ty port seq len) s t := by
  obtain hfail | ⟨-, -, -, ⟨-, rfl⟩ | ⟨-, rfl⟩⟩ := execTxSend_cases hx
  · obtain rfl | rfl := hfail <;> exact .fail ..
  · exact { CommandEffect.refl _ s with }
  · exact { CommandEffect.refl _ s with }

theorem execEvPop_effect (hx : execEvPop s = .next t) : CommandEffect .evPop s t := by
  obtain ⟨-, rfl⟩ | ⟨e, es, -, rfl⟩ := execEvPop_cases hx
  · exact { CommandEffect.refl _ s with evRegs := .inr rfl }
  · exact { CommandEffect.refl _ s with evRegs := .inr rfl }

/-- Every command's effect. -/
theorem exec_effect {i : Instr} (hx : exec i s = .next t) : CommandEffect i s t := by
  cases i with
  | nop => cases hx; exact { CommandEffect.refl _ s with }
  | hdrPack => cases hx; exact { CommandEffect.refl _ s with }
  | hdrUnpack => cases hx; exact { CommandEffect.refl _ s with }
  | idPack => cases hx; exact { CommandEffect.refl _ s with }
  | idUnpack => cases hx; exact { CommandEffect.refl _ s with }
  | idMatch => cases hx; exact { CommandEffect.refl _ s with }
  | crcInit => cases hx; exact { CommandEffect.refl _ s with crcacc := .inr (.inl rfl) }
  | crcUpdate => exact execCrcUpdate_effect hx
  | bufInit => exact execBufInit_effect hx
  | bufWrite => exact execBufWrite_effect hx
  | bufRead => exact execBufRead_effect hx
  | bufMove => exact execBufMove_effect hx
  | bufClear => exact execBufClear_effect hx
  | bufIsfull => exact execBufIsfull_effect hx
  | bufAvail => exact execBufAvail_effect hx
  | bufSize => exact execBufSize_effect hx
  | slotSet => exact execSlotSet_effect hx
  | slotFree => exact execSlotFree_effect hx
  | slotGet => exact execSlotGet_effect hx
  | ifUp => exact execIfUp_effect hx
  | ifDown => cases hx; exact { CommandEffect.refl _ s with run := .inr (.inr (.inl rfl)) }
  | cntClear => cases hx; exact { CommandEffect.refl _ s with }
  | txSend => exact execTxSend_effect hx
  | evPop => exact execEvPop_effect hx

/-- Settles O41: the frame is `CommandEffect`'s, and its clause on XBUF gives the two about bytes. -/
theorem commandFrame : Obligations.CommandFrame := by
  unfold Obligations.CommandFrame
  intro i s t hx
  have h := exec_effect hx
  refine ⟨⟨h.params, h.arg0, h.arg1, h.lastcmd, h.evie, h.errie, h.rxin, h.agenda, h.readData, h.resets⟩,
    fun hne b => (h.xbuf b).resolve_right ?_, fun ch len he b hb => (h.xbuf b).resolve_right ?_⟩
  · rintro ⟨ch, len, rfl, -⟩
    exact hne rfl
  · subst he
    rintro ⟨ch', len', he, hb'⟩
    cases he
    exact hb hb'

/-! ### Who writes what, over every step (R17, R19, R52) -/

/-- What a step that is no reset may change, and the turn that must then come next. -/
structure StepWrites (s t : State) : Prop
    extends NamedWrites (NextCommand s) (∃ ts, s.agenda = .rxError :: ts) s t where
  command : (t.err = s.err ∧ t.lastcmd = s.lastcmd) ∨ ∃ w ts, s.agenda = .write 4 s.params.base w :: ts
  arg0 : t.arg0 = s.arg0 ∨ ∃ w ts, s.agenda = .write 4 (s.params.base + 0x004) w :: ts
  arg1 : t.arg1 = s.arg1 ∨ ∃ w ts, s.agenda = .write 4 (s.params.base + 0x008) w :: ts

theorem StepWrites.refl (s : State) : StepWrites s s where
  toNamedWrites := .refl _ _ s
  command := .inl ⟨rfl, rfl⟩
  arg0 := .inl rfl
  arg1 := .inl rfl

theorem StepWrites.dispatcherTurn (s : State) (ts : List Turn) :
    StepWrites s (dispatcherTurn { s with agenda := ts }) :=
  have hrec := onlyReceived_dispatcherTurn { s with agenda := ts }
  { NamedWrites.of_onlyReceived _ _ hrec (sameTables_dispatcherTurn _) with
    command := .inl ⟨by rw [hrec], by rw [hrec]⟩
    arg0 := .inl (by rw [hrec])
    arg1 := .inl (by rw [hrec]) }

/-- The write of CMD: the word's command runs, or the word is none and fails (R19, R67). -/
theorem runCommand_cases {w : Word} (h : runCommand w s = .next t) :
    (∃ i, decode w = .command i ∧ exec i { s with lastcmd := w } = .next t) ∨
      t = fail .badcmd { s with lastcmd := w } := by
  unfold runCommand at h
  dsimp only at h
  split at h
  · exact .inl ⟨_, ‹_›, h⟩
  · cases h; exact .inr rfl
  · cases h; exact .inr rfl

theorem StepWrites.runCommand {w : Word} {ts : List Turn} (hag : s.agenda = .write 4 s.params.base w :: ts)
    (h : runCommand w { s with agenda := ts } = .next t) : StepWrites s t := by
  obtain ⟨i, hd, hx⟩ | rfl := runCommand_cases h
  · have he := exec_effect hx
    have hn : NextCommand s i := ⟨w, ts, hag, hd⟩
    exact { he.of_command hn _ with
      command := .inr ⟨w, ts, hag⟩
      arg0 := .inl he.arg0
      arg1 := .inl he.arg1 }
  · exact { StepWrites.refl s with command := .inr ⟨w, ts, hag⟩ }

theorem StepWrites.rxDeviceError {ts : List Turn} (hag : s.agenda = .rxError :: ts) :
    StepWrites s (rxDeviceError { s with agenda := ts }) := by
  unfold Machine.rxDeviceError
  split
  · exact { StepWrites.refl s with run := .inr (.inr (.inr ⟨ts, hag⟩)), rxerr := .inr (.inr ⟨ts, hag⟩) }
  · exact { StepWrites.refl s with }

theorem StepWrites.xwriteRange (s : State) (ts : List Turn) (off : Nat) (b : List Byte) :
    StepWrites s (xwriteRange off b { s with agenda := ts }) := by
  rw [xwriteRange_eq]
  exact { StepWrites.refl s with }

/-- Every step but a reset, agent by agent along `step_cases`. -/
theorem step_writes (hstep : step s = .next t) (hreset : ∀ ts, s.agenda ≠ .blockReset :: ts) : StepWrites s t := by
  obtain ⟨rfl, -⟩ | ⟨tn, ts, hag, htn⟩ := step_cases hstep
  · exact .dispatcherTurn s s.agenda
  obtain ⟨-, rfl⟩ | ⟨w, a, -, ht⟩ | ⟨w, a, v, rfl, hw⟩ | ⟨f, -, rfl⟩ | ⟨rfl, rfl⟩ | ⟨rfl, -⟩ := htn
  · exact .dispatcherTurn s ts
  · rw [ht]; exact { StepWrites.refl s with }
  · obtain rfl | ⟨rfl, off, rfl, ⟨rfl, hrun⟩ | ⟨rfl, rfl⟩ | ⟨rfl, rfl⟩ | ⟨-, rfl⟩ | ⟨-, ht⟩⟩ := hw
    · exact { StepWrites.refl s with }
    · exact .runCommand hag hrun
    · exact { StepWrites.refl s with arg0 := .inr ⟨v, ts, hag⟩ }
    · exact { StepWrites.refl s with arg1 := .inr ⟨v, ts, hag⟩ }
    · exact { StepWrites.refl s with }
    · rw [ht]; exact .xwriteRange s ts _ _
  · exact { StepWrites.refl s with }
  · exact .rxDeviceError hag
  · exact absurd hag (hreset ts)

/-- Settles O42: each clause of `StepWrites` says that the piece is unchanged or names the turn. -/
theorem whoWrites : Obligations.WhoWrites := by
  unfold Obligations.WhoWrites
  intro s t hstep hreset
  have h := step_writes hstep hreset
  refine ⟨h.run.resolve_left, h.rxerr.resolve_left, h.ownaddr.resolve_left, h.crcacc.resolve_left,
    fun hne => h.evRegs.resolve_left ?_, fun c => (h.maxcap c).resolve_left,
    fun i hne => (h.registration i).resolve_left ?_, fun hne => h.command.resolve_left ?_, h.arg0.resolve_left,
    h.arg1.resolve_left⟩
  · rintro ⟨h0, h1⟩
    exact hne.elim (· h0) (· h1)
  · rintro ⟨hproto, hport, hremote⟩
    exact hne.elim (· hproto) (·.elim (· hport) (· hremote))
  · rintro ⟨herr, hlast⟩
    exact hne.elim (· herr) (· hlast)

end Sys2Proof.Machine

/-! PROOFS. Accesses outside the window (R47, R48), and which steps send a frame (R54, R161). -/

namespace Sys2Proof.Machine

variable {s t : State}

/-! ### Accesses outside the window (R47, R48) -/

/-- An access the block performs reaches it. -/
theorem reaches_of_wordAccess {p : Params} {width addr : Nat} (h : wordAccess p width addr = true) :
    reaches p width addr = true := by
  obtain ⟨rfl, hlo, -, hhi⟩ := (wordAccess_iff ..).mp h
  exact (reaches_iff ..).mpr ⟨by omega, hhi⟩

/-- A host access that does not reach the block only takes its turn (R48). -/
theorem step_unreached {width addr : Nat} {v : Word} {ts : List Turn}
    (hag : s.agenda = .read width addr :: ts ∨ s.agenda = .write width addr v :: ts)
    (hr : ¬reaches s.params width addr = true) : step s = .next { s with agenda := ts } := by
  have hw : ¬wordAccess s.params width addr = true := fun h => hr (reaches_of_wordAccess h)
  obtain hag | hag := hag
  · rw [step_turn hag, runTurn, hostRead, if_neg hw, if_neg hr]
  · rw [step_turn hag, runTurn, hostWrite, if_neg hw, if_neg hr]

/-- Settles O8: the first clause is `step_unreached`, the second `step_busError`, since an access the block performs
begins inside the window. -/
theorem outsideWindow : Obligations.OutsideWindow := by
  unfold Obligations.OutsideWindow
  intro s width addr v ts hag
  refine ⟨fun hout => step_unreached hag ?_, fun hlo hin => step_busError hag ?_ ?_⟩
  · rw [reaches_iff]; omega
  · rw [wordAccess_iff]; omega
  · rw [reaches_iff]; omega

/-! ### TXOUT (R54, R161) -/

theorem OnlyTable.txout (h : OnlyTable s t) : t.txout = s.txout := by rw [h]

theorem dispatcherTurn_txout (s : State) : (dispatcherTurn s).txout = s.txout := by
  rw [onlyReceived_dispatcherTurn s]

theorem rxDeviceError_txout (s : State) : (rxDeviceError s).txout = s.txout := by
  unfold rxDeviceError; split <;> rfl

/-- TX_SEND adds its frame where the TX port accepts it, and nothing otherwise (R94, R153). -/
theorem execTxSend_txout {ty : FrameType} {port : Port} {seq : Seq} {len : BitVec 4}
    (hx : execTxSend ty port seq len s = .next t) : t.txout = s.txout ∨ ∃ f, t.txout = s.txout ++ [f] := by
  obtain hfail | ⟨-, -, -, ⟨-, rfl⟩ | ⟨-, rfl⟩⟩ := execTxSend_cases hx
  · obtain rfl | rfl := hfail <;> exact .inl rfl
  · exact .inl rfl
  · exact .inr ⟨_, rfl⟩

/-- Every other command leaves TXOUT as it was. -/
theorem exec_txout {i : Instr} (hx : exec i s = .next t) (hi : ∀ ty port seq len, i ≠ .txSend ty port seq len) :
    t.txout = s.txout := by
  cases i with
  | nop | hdrPack | hdrUnpack | idPack | idUnpack | idMatch | crcInit | ifDown | cntClear => cases hx; rfl
  | crcUpdate => obtain rfl | ⟨-, rfl⟩ := execCrcUpdate_cases hx <;> rfl
  | bufInit => obtain rfl | rfl | ⟨-, -, rfl⟩ := execBufInit_cases hx <;> rfl
  | bufWrite =>
    obtain hfail | ⟨-, -, -, u, hu, rfl⟩ := execBufWrite_cases hx
    · obtain rfl | rfl | rfl | rfl := hfail <;> rfl
    · exact (onlyTable_chainWrite hu).txout
  | bufRead =>
    obtain rfl | rfl | ⟨-, -, -, rfl⟩ := execBufRead_cases hx
    · rfl
    · rfl
    · exact xwriteRange_txout ..
  | bufMove =>
    obtain hfail | ⟨-, -, -, -, -, u, hu, rfl⟩ := execBufMove_cases hx
    · obtain rfl | rfl | rfl := hfail <;> rfl
    · exact (onlyTable_chainMove hu).txout
  | bufClear => obtain rfl | rfl | ⟨-, -, rfl⟩ := execBufClear_cases hx <;> rfl
  | bufIsfull => obtain rfl | ⟨-, rfl⟩ := execBufIsfull_cases hx <;> rfl
  | bufAvail => obtain rfl | ⟨-, rfl⟩ := execBufAvail_cases hx <;> rfl
  | bufSize => obtain rfl | ⟨-, rfl⟩ := execBufSize_cases hx <;> rfl
  | slotSet =>
    obtain hfail | ⟨r, -, -, -, -, -, rfl⟩ := execSlotSet_cases hx
    · obtain rfl | rfl := hfail <;> rfl
    · rfl
  | slotFree =>
    obtain rfl | ⟨-, rfl⟩ := execSlotFree_cases hx
    · rfl
    · simp
  | slotGet => obtain rfl | ⟨-, rfl⟩ := execSlotGet_cases hx <;> rfl
  | ifUp => obtain rfl | ⟨-, rfl⟩ := execIfUp_cases hx <;> rfl
  | evPop => obtain ⟨-, rfl⟩ | ⟨e, es, -, rfl⟩ := execEvPop_cases hx <;> rfl
  | txSend => exact absurd rfl (hi _ _ _ _)

/-- A word written to CMD changes TXOUT only as a TX_SEND, by one frame at its end (R19, R94). -/
theorem runCommand_txout {w : Word} (h : runCommand w s = .next t) (hne : t.txout ≠ s.txout) :
    ∃ ty port seq len f, decode w = .command (.txSend ty port seq len) ∧ t.txout = s.txout ++ [f] := by
  obtain ⟨i, hd, hx⟩ | rfl := runCommand_cases h
  · by_cases hi : ∃ ty port seq len, i = .txSend ty port seq len
    · obtain ⟨ty, port, seq, len, rfl⟩ := hi
      obtain ⟨f, hf⟩ := (execTxSend_txout hx).resolve_left hne
      exact ⟨ty, port, seq, len, f, hd, hf⟩
    · exact absurd (exec_txout hx fun ty port seq len he => hi ⟨ty, port, seq, len, he⟩) hne
  · exact absurd rfl hne

/-- Settles O23, agent by agent along `step_cases`: of all turns only the write of CMD does not leave TXOUT, and
`runCommand_txout` says which command it then is. -/
theorem onlyTxSendTransmits : Obligations.OnlyTxSendTransmits := by
  unfold Obligations.OnlyTxSendTransmits
  intro s t hstep hne
  obtain ⟨rfl, -⟩ | ⟨tn, ts, hag, htn⟩ := step_cases hstep
  · exact absurd (dispatcherTurn_txout s) hne
  obtain ⟨-, rfl⟩ | ⟨w, a, -, ht⟩ | ⟨w, a, v, rfl, hw⟩ | ⟨f, -, rfl⟩ | ⟨-, rfl⟩ | ⟨-, rfl⟩ := htn
  · exact absurd (dispatcherTurn_txout _) hne
  · exact absurd (by rw [ht]) hne
  · obtain rfl | ⟨rfl, off, rfl, ⟨rfl, hrun⟩ | ⟨-, rfl⟩ | ⟨-, rfl⟩ | ⟨-, rfl⟩ | ⟨-, ht⟩⟩ := hw
    · exact absurd rfl hne
    · obtain ⟨ty, port, seq, len, f, hd, hf⟩ := runCommand_txout hrun hne
      exact ⟨ty, port, seq, len, f, ⟨v, ts, hag, hd⟩, hf⟩
    · exact absurd rfl hne
    · exact absurd rfl hne
    · exact absurd rfl hne
    · exact absurd (by rw [ht, xwriteRange_txout]) hne
  · exact absurd rfl hne
  · exact absurd (rxDeviceError_txout _) hne
  · exact absurd rfl hne

end Sys2Proof.Machine

/-! PROOFS. What a turn of the dispatcher may write (R52, R134): the slot a frame is routed to and its two chains, one
event, and a step of the slot's ROLE. -/

namespace Sys2Proof.Machine

variable {s t u : State} {f : Frame} {i : Nat}

/-- The slot a frame is routed to, by its type (R132, R133). -/
def routedSlot (s : State) (f : Frame) : Option Nat :=
  match frameType f with
  | .first | .next | .last | .single => routeData s f
  | .connect =>
      if flagResponse (frameFlags f) then findPeer s (roleIs .connecting) (framePort f) (frameSrc f)
      else findPort s .listen (framePort f)
  | .disconnect => findPeer s isPeered (framePort f) (frameSrc f)
  | .stat | .ack => findPeer s (roleIs .connected) (framePort f) (frameSrc f)

/-! ### Work on one slot (R122, R135 to R138) -/

/-- From `s` to `t` at most slot `i` and its two chains (R8) change; ROLE and the event FIFO stay. -/
structure SlotWork (i : Nat) (s t : State) : Prop where
  slot : ∀ j, j ≠ i → slotAt t j = slotAt s j
  chain : ∀ c, c / 2 ≠ i → chainAt t c = chainAt s c
  role : ∀ j, (slotAt t j).role = (slotAt s j).role
  events : t.events = s.events

theorem SlotWork.refl (i : Nat) (s : State) : SlotWork i s s := ⟨fun _ _ => rfl, fun _ _ => rfl, fun _ => rfl, rfl⟩

theorem SlotWork.trans (h : SlotWork i s t) (k : SlotWork i t u) : SlotWork i s u where
  slot j hj := (k.slot j hj).trans (h.slot j hj)
  chain c hc := (k.chain c hc).trans (h.chain c hc)
  role j := (k.role j).trans (h.role j)
  events := k.events.trans h.events

theorem SlotWork.setSlot {x : Slot} (hx : x.role = (slotAt s i).role) : SlotWork i s (setSlot i x s) where
  slot j hj := slotAt_setSlot_ne x (Ne.symm hj)
  chain _ _ := rfl
  role j := by
    rw [slotAt_setSlot]
    split
    · rename_i hj
      exact hj.1 ▸ hx
    · rfl
  events := rfl

theorem SlotWork.setChain {c : Nat} (hc : c / 2 = i) (x : Chain) : SlotWork i s (setChain c x s) where
  slot _ _ := rfl
  chain _ hd := chainAt_setChain_ne x fun he => hd (he ▸ hc)
  role _ := rfl
  events := rfl

theorem asmChain_div_two (i : Nat) : asmChain i / 2 = i := by rw [asmChain]; omega

theorem readyChain_div_two (i : Nat) : readyChain i / 2 = i := by rw [readyChain]; omega

theorem SlotWork.chainWrite {b : List Byte} (h : chainWrite (asmChain i) b s = .ok t) : SlotWork i s t := by
  obtain ⟨-, ⟨-, rfl⟩ | ⟨-, rfl⟩⟩ := chainWrite_ok h
  · exact .refl i _
  · exact .setChain (asmChain_div_two i) _

theorem SlotWork.chainMove (h : chainMove (readyChain i) (asmChain i) s = .ok t) : SlotWork i s t := by
  obtain ⟨-, rfl⟩ | ⟨-, rfl⟩ := chainMove_ok h
  · exact .refl i _
  · exact (SlotWork.setChain (readyChain_div_two i) _).trans (.setChain (asmChain_div_two i) _)

theorem SlotWork.clearAsm (i : Nat) (s : State) : SlotWork i s (chainClear (asmChain i) s) :=
  .setChain (asmChain_div_two i) _

theorem SlotWork.abortAsm (i : Nat) (s : State) : SlotWork i s (abortAsm i s) :=
  have hs : SlotWork i s (Machine.setSlot i { slotAt s i with asmActive := false, asmErr := false } s) := .setSlot rfl
  hs.trans (.clearAsm i _)

theorem SlotWork.appendAsm (i : Nat) (b : List Byte) (s : State) : SlotWork i s (appendAsm i b s) := by
  unfold Machine.appendAsm
  split
  · exact .refl i s
  · split
    · rename_i hw
      exact (SlotWork.chainWrite hw).trans (.setSlot rfl)
    · exact .setSlot rfl
    · exact .setSlot rfl

theorem SlotWork.startAsm (f : Frame) (i : Nat) (s : State) : SlotWork i s (startAsm f i s) := .setSlot rfl

theorem SlotWork.asmEnds (i : Nat) (s : State) : SlotWork i s (asmEnds i s) := .setSlot rfl

/-! ### What one frame does -/

/-- What a frame may do to a ROLE: nothing, a connection is answered, or a peer disconnects (R141, R143). -/
abbrev RoleStep (r r' : Role) : Prop :=
  r' = r ∨ (r = .connecting ∧ r' = .connected) ∨ ((r = .connecting ∨ r = .connected) ∧ r' = .closed)

/-- From `s` to `t` a frame `f` routed to `r` changes at most that slot and its two chains, takes a ROLE at most one
step, and posts at most one event, which names that slot and `f`'s port, sequence and source (R52, R134). -/
structure FrameEffect (f : Frame) (r : Option Nat) (s t : State) : Prop where
  slot : ∀ j, r ≠ some j → slotAt t j = slotAt s j
  chain : ∀ c, r ≠ some (c / 2) → chainAt t c = chainAt s c
  role : ∀ j, RoleStep (slotAt s j).role (slotAt t j).role
  events : t.events = s.events ∨
    ∃ i kind value flags, r = some i ∧ t.events = s.events ++ [mkEvent f kind i value flags]

theorem FrameEffect.refl (f : Frame) (r : Option Nat) (s : State) : FrameEffect f r s s :=
  ⟨fun _ _ => rfl, fun _ _ => rfl, fun _ => .inl rfl, .inl rfl⟩

theorem SlotWork.frameEffect (h : SlotWork i s t) (f : Frame) : FrameEffect f (some i) s t where
  slot j hj := h.slot j fun he => hj (congrArg some he.symm)
  chain c hc := h.chain c fun he => hc (congrArg some he.symm)
  role j := .inl (h.role j)
  events := .inl h.events

/-- An event is posted after work on its slot. -/
theorem SlotWork.post (h : SlotWork i s t) (f : Frame) (kind : EventKind) (value : Half) (flags : Byte) :
    FrameEffect f (some i) s (post (mkEvent f kind i value flags) t) :=
  { h.frameEffect f with events := .inr ⟨i, kind, value, flags, rfl, congrArg (· ++ _) h.events⟩ }

/-- The slot's ROLE takes its step and an event is posted after work on the slot. -/
theorem SlotWork.setRole_post (h : SlotWork i s t) {r : Role} (hr : RoleStep (slotAt s i).role r) (f : Frame)
    (kind : EventKind) (value : Half) (flags : Byte) :
    FrameEffect f (some i) s (Machine.post (mkEvent f kind i value flags) (setRole i r t)) where
  slot j hj := (slotAt_setSlot_ne _ fun he => hj (congrArg some he)).trans ((h.frameEffect f).slot j hj)
  chain := (h.frameEffect f).chain
  role j := by
    rw [slotAt_post, setRole, slotAt_setSlot]
    split
    · rename_i hj
      exact hj.1 ▸ hr
    · exact .inl (h.role j)
  events := .inr ⟨i, kind, value, flags, rfl, congrArg (· ++ _) h.events⟩

/-- Work on the slot after the frame's event. -/
theorem FrameEffect.trans_slotWork (h : FrameEffect f (some i) s t) (k : SlotWork i t u) :
    FrameEffect f (some i) s u where
  slot j hj := ((k.frameEffect f).slot j hj).trans (h.slot j hj)
  chain c hc := ((k.frameEffect f).chain c hc).trans (h.chain c hc)
  role j := k.role j ▸ h.role j
  events := k.events ▸ h.events

theorem SlotWork.transferFails (h : SlotWork i s t) (f : Frame) (value : Half) (reason : Byte) :
    FrameEffect f (some i) s (transferFails f i value reason t) := by
  have hc := h.trans (.clearAsm i t)
  unfold Machine.transferFails
  dsimp only
  split
  · exact hc.post ..
  · exact hc.frameEffect f

theorem SlotWork.transferDone (h : SlotWork i s t) (f : Frame) (seq : Seq) (value : Half) :
    FrameEffect f (some i) s (transferDone f i seq value t) :=
  have hs : SlotWork i t (Machine.setSlot i { slotAt t i with rxSeq := seq } t) := .setSlot rfl
  (h.trans hs).post ..

theorem SlotWork.finishAsm (h : SlotWork i s t) (f : Frame) : FrameEffect f (some i) s (finishAsm f i t) := by
  have hfail : ∀ v r, FrameEffect f (some i) s (Machine.asmEnds i (Machine.transferFails f i v r t)) := fun v r =>
    (h.transferFails f v r).trans_slotWork (.asmEnds i _)
  unfold Machine.finishAsm
  dsimp only
  split
  · exact hfail _ _
  · split
    · exact hfail _ _
    · split
      · exact hfail _ _
      · split
        · rename_i hm
          exact ((h.trans (.chainMove hm)).transferDone ..).trans_slotWork (.asmEnds i _)
        · exact hfail _ _
        · exact hfail _ _

/-! ### The handlers (R137 to R145) -/

theorem handleFirst_effect (h : handleFirst f s = some t) : FrameEffect f (routeData s f) s t := by
  obtain ⟨i, hroute, rfl⟩ := Option.map_eq_some_iff.mp h
  rw [hroute]
  exact (((SlotWork.abortAsm i s).trans (.startAsm f i _)).trans (.appendAsm ..)).frameEffect f

theorem handleNext_effect (h : handleNext f s = some t) : FrameEffect f (routeData s f) s t := by
  unfold handleNext at h
  split at h
  · cases h
  · rename_i i hroute
    split at h <;> cases h
    rw [hroute]
    exact (SlotWork.appendAsm ..).frameEffect f

theorem handleLast_effect (h : handleLast f s = some t) : FrameEffect f (routeData s f) s t := by
  unfold handleLast at h
  split at h
  · cases h
  · rename_i i hroute
    split at h <;> cases h
    rw [hroute]
    exact (SlotWork.appendAsm ..).finishAsm f

theorem handleSingle_effect (h : handleSingle f s = some t) : FrameEffect f (routeData s f) s t := by
  obtain ⟨i, hroute, rfl⟩ := Option.map_eq_some_iff.mp h
  rw [hroute]
  have ha := SlotWork.abortAsm i s
  dsimp only
  split
  · rename_i hw
    have haw := ha.trans (.chainWrite hw)
    split
    · rename_i hm
      exact (haw.trans (.chainMove hm)).transferDone ..
    · exact haw.transferFails ..
    · exact haw.transferFails ..
  · exact ha.transferFails ..
  · exact ha.transferFails ..

/-- The answered slot was CONNECTING (R141). -/
theorem handleConnect_effect (h : handleConnect f s = some t) :
    FrameEffect f
      (if flagResponse (frameFlags f) then findPeer s (roleIs .connecting) (framePort f) (frameSrc f)
        else findPort s .listen (framePort f)) s t := by
  unfold handleConnect at h
  dsimp only at h
  split at h
  · rename_i hresp
    obtain ⟨i, hfind, rfl⟩ := Option.map_eq_some_iff.mp h
    obtain ⟨-, hrole, -, -⟩ := findPeer_some hfind
    rw [if_pos hresp, hfind]
    split
    · exact (SlotWork.refl i s).setRole_post (.inr (.inl ⟨of_decide_eq_true hrole, rfl⟩)) ..
    · exact (SlotWork.refl i s).post ..
  · rename_i hresp
    obtain ⟨i, hfind, rfl⟩ := Option.map_eq_some_iff.mp h
    rw [if_neg hresp, hfind]
    exact (SlotWork.refl i s).post ..

theorem isPeered_iff (r : Role) : isPeered r = true ↔ r = .connecting ∨ r = .connected := by cases r <;> decide

/-- The closed slot was CONNECTING or CONNECTED (R143). -/
theorem handleDisconnect_effect (h : handleDisconnect f s = some t) :
    FrameEffect f (findPeer s isPeered (framePort f) (frameSrc f)) s t := by
  obtain ⟨i, hfind, rfl⟩ := Option.map_eq_some_iff.mp h
  obtain ⟨-, hrole, -, -⟩ := findPeer_some hfind
  rw [hfind]
  exact (SlotWork.abortAsm i s).setRole_post (.inr (.inr ⟨(isPeered_iff _).mp hrole, rfl⟩)) ..

theorem handleStat_effect (h : handleStat f s = some t) :
    FrameEffect f (findPeer s (roleIs .connected) (framePort f) (frameSrc f)) s t := by
  obtain ⟨i, hfind, rfl⟩ := Option.map_eq_some_iff.mp h
  rw [hfind]
  split
  · exact (SlotWork.refl i s).post ..
  · exact (SlotWork.refl i s).post ..

theorem handleAck_effect (h : handleAck f s = some t) :
    FrameEffect f (findPeer s (roleIs .connected) (framePort f) (frameSrc f)) s t := by
  obtain ⟨i, hfind, rfl⟩ := Option.map_eq_some_iff.mp h
  rw [hfind]
  exact (SlotWork.refl i s).post ..

theorem handle_effect (h : handle f s = some t) : FrameEffect f (routedSlot s f) s t := by
  unfold handle at h
  unfold routedSlot
  cases hty : frameType f with
  | first => rw [hty] at h; exact handleFirst_effect h
  | next => rw [hty] at h; exact handleNext_effect h
  | last => rw [hty] at h; exact handleLast_effect h
  | single => rw [hty] at h; exact handleSingle_effect h
  | connect => rw [hty] at h; exact handleConnect_effect h
  | disconnect => rw [hty] at h; exact handleDisconnect_effect h
  | stat => rw [hty] at h; exact handleStat_effect h
  | ack => rw [hty] at h; exact handleAck_effect h

/-! ### A turn of the dispatcher (R127, R128) -/

/-- Neither `drop` nor `take` writes what FrameEffect speaks of. -/
theorem receive_effect (f : Frame) (s : State) : FrameEffect f (routedSlot s f) s (receive f s) := by
  obtain hd | ⟨t, -, hh, ht⟩ := receive_cases f s
  · rw [hd]; exact { FrameEffect.refl f (routedSlot s f) s with }
  · rw [ht]; exact { handle_effect hh with }

theorem dispatcherTurn_of_empty (h : s.rxin = []) : dispatcherTurn s = s := by
  obtain he | ⟨f, fs, hin, -⟩ := dispatcherTurn_cases s
  · exact he
  · rw [h] at hin; cases hin

theorem dispatcherTurn_effect {fs : List Frame} (h : s.rxin = f :: fs) :
    FrameEffect f (routedSlot s f) s (dispatcherTurn s) := by
  obtain he | ⟨f', fs', hin, -, -, he⟩ := dispatcherTurn_cases s
  · rw [he]; exact .refl f _ s
  · rw [h] at hin
    cases hin
    rw [he]
    exact { receive_effect f { s with rxin := fs } with }

/-- A turn takes the head of RXIN or changes nothing. -/
theorem dispatcherTurn_rxin {fs : List Frame} (h : s.rxin = f :: fs) :
    (dispatcherTurn s).rxin = fs ∨ dispatcherTurn s = s := by
  obtain he | ⟨f', fs', hin, -, -, he⟩ := dispatcherTurn_cases s
  · exact .inr he
  · rw [h] at hin
    cases hin
    rw [he]
    obtain hd | ⟨t, hot, -, ht⟩ := receive_cases f { s with rxin := fs }
    · rw [hd]; exact .inl rfl
    · rw [ht, hot]; exact .inl rfl

theorem dispatcherTurn_role (s : State) (j : Nat) :
    RoleStep (slotAt s j).role (slotAt (dispatcherTurn s) j).role := by
  cases hin : s.rxin with
  | nil => rw [dispatcherTurn_of_empty hin]; exact .inl rfl
  | cons f fs => exact (dispatcherTurn_effect hin).role j

/-- An RX-error step writes only RUN and RXERR (R52, R154). -/
theorem step_rxError {ts : List Turn} (hag : s.agenda = .rxError :: ts) (h : step s = .next t) :
    t = { s with agenda := ts, run := t.run, rxerr := t.rxerr } := by
  rw [step_turn hag, runTurn, rxDeviceError] at h
  split at h <;> cases h <;> rfl

/-- Settles O56: what a turn leaves is `onlyReceived_dispatcherTurn` and `sameTables_dispatcherTurn`, and what it does
with the head of RXIN is `dispatcherTurn_effect`. -/
theorem dispatcherFrame : Obligations.DispatcherFrame := by
  unfold Obligations.DispatcherFrame
  refine ⟨fun s ts t hag h => step_rxError hag h, fun s => ?_⟩
  obtain ⟨hcap, hreg⟩ := sameTables_dispatcherTurn s
  refine ⟨onlyReceived_dispatcherTurn s, dispatcherTurn_of_empty, hcap, fun j => ?_, fun f fs hin => ?_⟩
  · obtain ⟨hproto, hport, hremote⟩ := hreg j
    exact ⟨hproto, hport, hremote, dispatcherTurn_role s j⟩
  · have h := dispatcherTurn_effect hin
    refine ⟨dispatcherTurn_rxin hin, fun j hj => ?_, h.events⟩
    have hasm : 2 * j / 2 = j := by omega
    have hready : (2 * j + 1) / 2 = j := by omega
    exact ⟨h.slot j hj, h.chain (2 * j) (by rwa [hasm]), h.chain (2 * j + 1) (by rwa [hready])⟩

end Sys2Proof.Machine

/-! PROOFS. The encoding (R59 to R71): which word the decoder reads as which command, the fields it finds in an encoded
word, what a host's write of any word to CMD does, and the assembler. -/

namespace Sys2Proof

/-! ### The three outcomes of the decoder (R67) -/

section Outcomes

variable {w : Word} {m : Mnemonic}

theorem decode_of_reserved (h : mnemonicAt (bitsOf w 24 8) = none) : decode w = .reservedOpcode (bitsOf w 24 8) := by
  rw [decode, h]

theorem decode_of_match (hm : mnemonicAt (bitsOf w 24 8) = some m) (h : w &&& rowMask m = rowMatch m) :
    decode w = .command (readFields m w) := by
  rw [decode, hm]
  exact if_pos h

theorem decode_of_mismatch (hm : mnemonicAt (bitsOf w 24 8) = some m) (h : w &&& rowMask m ≠ rowMatch m) :
    decode w = .nonzeroReservedBits m := by
  rw [decode, hm]
  exact if_neg h

/-- A command comes of one row, whose mask and match the word meets. -/
theorem row_of_decode {i : Instr} (h : decode w = .command i) :
    ∃ m, w &&& rowMask m = rowMatch m ∧ readFields m w = i := by
  unfold decode at h
  split at h
  · cases h
  next m _ =>
    split at h <;> cases h
    exact ⟨m, ‹_›, rfl⟩

end Outcomes

/-! ### The fields of the formats (R61 to R65) -/

theorem bitsOf_eq_iff {w : Word} {lo n : Nat} {x : BitVec n} :
    bitsOf w lo n = x ↔ w.toNat / 2 ^ lo % 2 ^ n = x.toNat := by
  rw [← toNat_bitsOf, BitVec.toNat_inj]

section Fields

variable (m : Mnemonic) (ty : FrameType) (port : Port) (seq : Seq) (len ch ch2 slot : BitVec 4) (imm : Half)
  (role : BitVec 3) (proto : Proto)

@[simp] theorem bitsOf_formatFH_type : bitsOf (formatFH m ty port seq len) 21 3 = frameTypeCode ty := by
  rw [bitsOf_eq_iff, toNat_formatFH]; omega

@[simp] theorem bitsOf_formatFH_port : bitsOf (formatFH m ty port seq len) 18 3 = port := by
  rw [bitsOf_eq_iff, toNat_formatFH]; omega

@[simp] theorem bitsOf_formatFH_seq : bitsOf (formatFH m ty port seq len) 16 2 = seq := by
  rw [bitsOf_eq_iff, toNat_formatFH]; omega

@[simp] theorem bitsOf_formatFH_len : bitsOf (formatFH m ty port seq len) 0 4 = len := by
  rw [bitsOf_eq_iff, toNat_formatFH]; omega

@[simp] theorem bitsOf_formatFI_imm : bitsOf (formatFI m imm) 0 16 = imm := by
  rw [bitsOf_eq_iff, toNat_formatFI]; omega

/-- HDR_UNPACK's byte is the low half of IMM16. -/
@[simp] theorem bitsOf_formatFI_byte (b : Byte) : bitsOf (formatFI m (b.setWidth 16)) 0 8 = b := by
  rw [bitsOf_eq_iff, toNat_formatFI, BitVec.toNat_setWidth]; omega

@[simp] theorem bitsOf_formatFB_ch : bitsOf (formatFB m ch ch2 imm) 20 4 = ch := by
  rw [bitsOf_eq_iff, toNat_formatFB]; omega

@[simp] theorem bitsOf_formatFB_ch2 : bitsOf (formatFB m ch ch2 imm) 16 4 = ch2 := by
  rw [bitsOf_eq_iff, toNat_formatFB]; omega

@[simp] theorem bitsOf_formatFB_imm : bitsOf (formatFB m ch ch2 imm) 0 16 = imm := by
  rw [bitsOf_eq_iff, toNat_formatFB]; omega

@[simp] theorem bitsOf_formatFS_slot : bitsOf (formatFS m slot role proto port) 20 4 = slot := by
  rw [bitsOf_eq_iff, toNat_formatFS]; omega

@[simp] theorem bitsOf_formatFS_role : bitsOf (formatFS m slot role proto port) 16 3 = role := by
  rw [bitsOf_eq_iff, toNat_formatFS]; omega

@[simp] theorem bitsOf_formatFS_proto : bitsOf (formatFS m slot role proto port) 8 1 = protoCode proto := by
  rw [bitsOf_eq_iff, toNat_formatFS]; omega

@[simp] theorem bitsOf_formatFS_port : bitsOf (formatFS m slot role proto port) 0 3 = port := by
  rw [bitsOf_eq_iff, toNat_formatFS]; omega

end Fields

/-! ### Decoding an encoded command -/

/-- Every command's word meets its row of the opcode table (R67, R68). -/
theorem encode_and_rowMask (i : Instr) : encode i &&& rowMask i.mnemonic = rowMatch i.mnemonic :=
  match i with
  | .nop => Laws.MatchesRow.nop
  | .hdrPack ty port seq => Laws.MatchesRow.hdrPack ty port seq
  | .hdrUnpack b => Laws.MatchesRow.hdrUnpack b
  | .idPack => Laws.MatchesRow.idPack
  | .idUnpack => Laws.MatchesRow.idUnpack
  | .idMatch => Laws.MatchesRow.idMatch
  | .crcInit => Laws.MatchesRow.crcInit
  | .crcUpdate len => Laws.MatchesRow.crcUpdate len
  | .bufInit ch cap => Laws.MatchesRow.bufInit ch cap
  | .bufWrite ch len => Laws.MatchesRow.bufWrite ch len
  | .bufRead ch len => Laws.MatchesRow.bufRead ch len
  | .bufMove dst src => Laws.MatchesRow.bufMove dst src
  | .bufClear ch => Laws.MatchesRow.bufClear ch
  | .bufIsfull ch => Laws.MatchesRow.bufIsfull ch
  | .bufAvail ch => Laws.MatchesRow.bufAvail ch
  | .bufSize ch => Laws.MatchesRow.bufSize ch
  | .slotSet slot role proto port => Laws.MatchesRow.slotSet slot role proto port
  | .slotFree slot => Laws.MatchesRow.slotFree slot
  | .slotGet slot => Laws.MatchesRow.slotGet slot
  | .ifUp => Laws.MatchesRow.ifUp
  | .ifDown => Laws.MatchesRow.ifDown
  | .cntClear => Laws.MatchesRow.cntClear
  | .txSend ty port seq len => Laws.MatchesRow.txSend ty port seq len
  | .evPop => Laws.MatchesRow.evPop

/-- Each field is where the row's format puts it: the simp lemmas on the formats' fields and the codes' inverses. -/
theorem readFields_encode (i : Instr) : readFields i.mnemonic (encode i) = i := by
  cases i <;> simp [Instr.mnemonic, encode, readFields]

/-- Settles O1: the opcode of the word selects the command's row (`opcode_encode`), the word meets it
(`encode_and_rowMask`), and the fields read are those written (`readFields_encode`). -/
theorem decodeEncode : Obligations.DecodeEncode := by
  unfold Obligations.DecodeEncode
  intro i
  have hrow : mnemonicAt (bitsOf (encode i) 24 8) = some i.mnemonic := by rw [opcode_encode, mnemonicAt_opcode]
  rw [decode_of_match hrow (encode_and_rowMask i), readFields_encode]

/-! ### Encoding a decoded word -/

section Row

variable {w : Word} {m : Mnemonic}

/-- The `match` column of R68 is the opcode over zero bits. -/
theorem rowMatch_eq_formatF0 (m : Mnemonic) : rowMatch m = formatF0 m := by cases m <;> rfl

/-- Bits the row's mask holds are the row's. -/
theorem bitsOf_of_match {lo n : Nat} (h : w &&& rowMask m = rowMatch m)
    (hmask : bitsOf (rowMask m) lo n = BitVec.allOnes n) : bitsOf w lo n = bitsOf (rowMatch m) lo n := by
  rw [← h, bitsOf_and, hmask, BitVec.and_allOnes]

/-- The mask of every row holds the opcode (R68). -/
theorem opcode_of_match (h : w &&& rowMask m = rowMatch m) : bitsOf w 24 8 = opcode m := by
  rw [bitsOf_of_match h (by cases m <;> decide)]
  cases m <;> decide

/-- Bits the row's mask holds below the opcode are zero (R67 (2)). -/
theorem zero_of_match {lo n : Nat} (h : w &&& rowMask m = rowMatch m)
    (hmask : bitsOf (rowMask m) lo n = BitVec.allOnes n) (hlo : lo + n ≤ 24) : bitsOf w lo n = 0#n := by
  rw [bitsOf_of_match h hmask, rowMatch_eq_formatF0, formatF0, bitsOf, BitVec.extractLsb'_append_eq_of_add_le hlo,
    BitVec.extractLsb'_zero]

/-- The word of a row without fields. -/
theorem formatF0_of_match (h : w &&& rowMask m = rowMatch m) (hmask : rowMask m = BitVec.allOnes 32) :
    formatF0 m = w := by
  rw [hmask, BitVec.and_allOnes] at h
  rw [h, rowMatch_eq_formatF0]

theorem formatFH_of_match {len : BitVec 4} (h : w &&& rowMask m = rowMatch m)
    (hmask : bitsOf (rowMask m) 4 12 = BitVec.allOnes 12) (hlen : bitsOf w 0 4 = len) :
    formatFH m (frameTypeOf (bitsOf w 21 3)) (bitsOf w 18 3) (bitsOf w 16 2) len = w := by
  have hopc := opcode_of_match h
  have hzero := zero_of_match h hmask (by decide)
  apply BitVec.eq_of_toNat_eq
  rw [bitsOf_eq_iff] at hopc hzero hlen
  rw [BitVec.toNat_ofNat] at hzero
  rw [toNat_formatFH, frameTypeCode_frameTypeOf]
  simp only [toNat_bitsOf]
  omega

theorem formatFI_of_match {imm : Half} (h : w &&& rowMask m = rowMatch m)
    (hmask : bitsOf (rowMask m) 16 8 = BitVec.allOnes 8) (himm : bitsOf w 0 16 = imm) : formatFI m imm = w := by
  have hopc := opcode_of_match h
  have hzero := zero_of_match h hmask (by decide)
  apply BitVec.eq_of_toNat_eq
  rw [bitsOf_eq_iff] at hopc hzero himm
  rw [BitVec.toNat_ofNat] at hzero
  rw [toNat_formatFI]
  omega

theorem formatFB_of_match {ch2 : BitVec 4} {imm : Half} (h : w &&& rowMask m = rowMatch m)
    (hch2 : bitsOf w 16 4 = ch2) (himm : bitsOf w 0 16 = imm) : formatFB m (bitsOf w 20 4) ch2 imm = w := by
  have hopc := opcode_of_match h
  apply BitVec.eq_of_toNat_eq
  rw [bitsOf_eq_iff] at hopc hch2 himm
  rw [toNat_formatFB, toNat_bitsOf]
  omega

theorem formatFS_of_match {role : BitVec 3} {proto : Proto} {port : Port} (h : w &&& rowMask m = rowMatch m)
    (hmask : bitsOf (rowMask m) 19 1 = BitVec.allOnes 1 ∧ bitsOf (rowMask m) 9 7 = BitVec.allOnes 7 ∧
      bitsOf (rowMask m) 3 5 = BitVec.allOnes 5)
    (hrole : bitsOf w 16 3 = role) (hproto : bitsOf w 8 1 = protoCode proto) (hport : bitsOf w 0 3 = port) :
    formatFS m (bitsOf w 20 4) role proto port = w := by
  obtain ⟨hmask19, hmask9, hmask3⟩ := hmask
  have hopc := opcode_of_match h
  have hzero19 := zero_of_match h hmask19 (by decide)
  have hzero9 := zero_of_match h hmask9 (by decide)
  have hzero3 := zero_of_match h hmask3 (by decide)
  apply BitVec.eq_of_toNat_eq
  rw [bitsOf_eq_iff] at hopc hzero19 hzero9 hzero3 hrole hproto hport
  rw [BitVec.toNat_ofNat] at hzero19 hzero9 hzero3
  rw [toNat_formatFS, toNat_bitsOf]
  omega

/-- The low half of IMM16 holds HDR_UNPACK's byte, and the row's mask the high half. -/
theorem imm_of_hdrUnpack_match (h : w &&& rowMask .HDR_UNPACK = rowMatch .HDR_UNPACK) :
    bitsOf w 0 16 = (bitsOf w 0 8).setWidth 16 := by
  have hzero := zero_of_match (lo := 8) (n := 8) h (by decide) (by decide)
  rw [bitsOf_eq_iff, BitVec.toNat_ofNat] at hzero
  rw [bitsOf_eq_iff, BitVec.toNat_setWidth, toNat_bitsOf]
  omega

/-- A word that meets a row is the encoding of the command the row reads from it (R67, R68): row by row, the fields read
are the word's, and a field the row does not use is zero in the word. -/
theorem encode_readFields (h : w &&& rowMask m = rowMatch m) : encode (readFields m w) = w := by
  cases m with
  | HDR_PACK => exact formatFH_of_match h (by decide) (zero_of_match h (by decide) (by decide))
  | TX_SEND => exact formatFH_of_match h (by decide) rfl
  | HDR_UNPACK => exact formatFI_of_match h (by decide) (imm_of_hdrUnpack_match h)
  | CRC_UPDATE => exact formatFI_of_match h (by decide) rfl
  | BUF_INIT | BUF_WRITE | BUF_READ => exact formatFB_of_match h (zero_of_match h (by decide) (by decide)) rfl
  | BUF_MOVE => exact formatFB_of_match h rfl (zero_of_match h (by decide) (by decide))
  | BUF_CLEAR | BUF_ISFULL | BUF_AVAIL | BUF_SIZE =>
    exact formatFB_of_match h (zero_of_match h (by decide) (by decide)) (zero_of_match h (by decide) (by decide))
  | SLOT_SET => exact formatFS_of_match h (by decide) rfl (protoCode_protoOf _).symm rfl
  | SLOT_FREE | SLOT_GET =>
    exact formatFS_of_match h (by decide) (zero_of_match h (by decide) (by decide))
      (zero_of_match h (by decide) (by decide)) (zero_of_match h (by decide) (by decide))
  | NOP | ID_PACK | ID_UNPACK | ID_MATCH | CRC_INIT | IF_UP | IF_DOWN | CNT_CLEAR | EV_POP =>
    exact formatF0_of_match h rfl

end Row

/-- Settles O2: an accepted word meets a row, and is then the encoding of what the row reads (`encode_readFields`). -/
theorem encodeDecode : Obligations.EncodeDecode := by
  unfold Obligations.EncodeDecode
  intro w i hd
  obtain ⟨m, h, rfl⟩ := row_of_decode hd
  exact encode_readFields h

/-- Settles O5: the decoder run on each word. -/
theorem sampleWords : Obligations.SampleWords := by
  unfold Obligations.SampleWords
  decide

/-! ### Opcodes (R60, R68, R69) -/

/-- The reserved opcodes, as R69 lists them. -/
abbrev ReservedOpcode (opc : Nat) : Prop :=
  opc = 0x06 ∨ opc = 0x07 ∨ (0x0A ≤ opc ∧ opc ≤ 0x0F) ∨ (0x18 ≤ opc ∧ opc ≤ 0x1F) ∨ (0x23 ≤ opc ∧ opc ≤ 0x2F) ∨
    (0x33 ≤ opc ∧ opc ≤ 0x37) ∨ (0x39 ≤ opc ∧ opc ≤ 0x3B) ∨ 0x3D ≤ opc

/-- The opcodes without a row are those R69 lists. -/
theorem mnemonicAt_eq_none_iff_reserved : ∀ o : BitVec 8, mnemonicAt o = none ↔ ReservedOpcode o.toNat := by decide

theorem mnemonicAt_eq_some_iff {o : BitVec 8} {m : Mnemonic} : mnemonicAt o = some m ↔ opcode m = o :=
  ⟨opcode_of_mnemonicAt o m, fun h => h ▸ mnemonicAt_opcode m⟩

theorem opcode_injective {m m' : Mnemonic} (h : opcode m = opcode m') : m = m' := by
  rw [← Option.some_inj, ← mnemonicAt_opcode m, h, mnemonicAt_opcode]

/-- The opcode of a word as the number of its top eight bits (R60). -/
theorem toNat_opcodeBits (w : Word) : (bitsOf w 24 8).toNat = w.toNat / 2 ^ 24 := by
  rw [toNat_bitsOf]
  omega

theorem mnemonicAt_opcodeBits_iff {w : Word} {m : Mnemonic} :
    mnemonicAt (bitsOf w 24 8) = some m ↔ (opcode m).toNat = w.toNat / 2 ^ 24 := by
  rw [mnemonicAt_eq_some_iff, ← toNat_opcodeBits, BitVec.toNat_inj]

theorem mnemonic_readFields (m : Mnemonic) (w : Word) : (readFields m w).mnemonic = m := by cases m <;> rfl

/-! ### The assembler (R71) -/

/-- The fields of the widths `ws` that the numbers `fs` give: each cut to its width, a missing one 0. -/
def cutFields (ws fs : List Nat) : List Nat := ws.mapIdx fun k n => fs.getD k 0 % 2 ^ n

/-- The numbers fit the widths when cutting them changes nothing. -/
theorem fieldsFit_iff_cutFields (ws fs : List Nat) : fieldsFit ws fs = true ↔ cutFields ws fs = fs := by
  induction ws generalizing fs with
  | nil => cases fs <;> simp [fieldsFit, cutFields]
  | cons n ws ih =>
    cases fs with
    | nil => simp [fieldsFit, cutFields]
    | cons f fs =>
      have hlt : f < 2 ^ n ↔ f % 2 ^ n = f := (Nat.mod_eq_iff_lt (by simp)).symm
      simp [fieldsFit, ih, hlt, cutFields, List.mapIdx_cons]

theorem fieldsFit_iff_getD (ws fs : List Nat) :
    fieldsFit ws fs = true ↔ fs.length = ws.length ∧ ∀ k < fs.length, fs.getD k 0 < 2 ^ ws.getD k 0 := by
  induction ws generalizing fs with
  | nil => cases fs <;> simp [fieldsFit]
  | cons n ws ih =>
    cases fs with
    | nil => simp [fieldsFit]
    | cons f fs =>
      simp only [fieldsFit, Bool.and_eq_true, decide_eq_true_eq, ih, List.length_cons, Nat.add_right_cancel_iff,
        Nat.forall_lt_succ_left, List.getD_cons_zero, List.getD_cons_succ]
      exact and_left_comm

/-- The command of a mnemonic and any numbers is written with the numbers cut to the form's widths. -/
theorem written_fieldsCommand (m : Mnemonic) (fs : List Nat) :
    written (fieldsCommand m fs) = { mnemonic := m, fields := cutFields (fieldWidths m) fs } := by
  cases m <;> simp [written, fieldsCommand, Instr.mnemonic, cutFields, fieldWidths, List.mapIdx_cons]

/-- Every command's written form names its fields in full. -/
theorem fieldsCommand_written (i : Instr) : fieldsCommand (written i).mnemonic (written i).fields = i := by
  cases i <;> simp [written, fieldsCommand, Instr.mnemonic]

/-- The well-formed commands are those written back as they were (R71). -/
theorem wellFormed_iff_written (c : Written) :
    c.wellFormed = true ↔ written (fieldsCommand c.mnemonic c.fields) = c := by
  obtain ⟨m, fs⟩ := c
  rw [Written.wellFormed, fieldsFit_iff_cutFields, written_fieldsCommand, Written.mk.injEq]
  exact (and_iff_right rfl).symm

theorem assemble_eq_some_iff {c : Written} {i : Instr} :
    assemble c = some i ↔ c.wellFormed = true ∧ fieldsCommand c.mnemonic c.fields = i := by
  rw [assemble, Option.ite_none_right_eq_some, Option.some_inj]

theorem assemble_eq_none_iff {c : Written} : assemble c = none ↔ ¬c.wellFormed = true := by
  rw [assemble, ite_eq_right_iff]
  simp

/-- Settles O6: a command's written form is well formed because the command of its fields is itself
(`fieldsCommand_written`); the converse is `wellFormed_iff_written`; and the failures are `fieldsFit_iff_getD`. -/
theorem assembler : Obligations.Assembler := by
  unfold Obligations.Assembler
  refine ⟨fun i => ?_, fun c i h => ?_, fun c => ?_⟩
  · have hi := fieldsCommand_written i
    exact assemble_eq_some_iff.mpr ⟨(wellFormed_iff_written _).mpr (congrArg written hi), hi⟩
  · obtain ⟨hwf, rfl⟩ := assemble_eq_some_iff.mp h
    exact (wellFormed_iff_written c).mp hwf
  · rw [assemble_eq_none_iff, Written.wellFormed, fieldsFit_iff_getD]

end Sys2Proof

namespace Sys2Proof.Machine

/-! ### What a write of any word to CMD does (R67, R69) -/

/-- The turn `withFetchWord` places runs the word as a command (R16, R19). -/
theorem step_withFetchWord {s : State} (hp : s.params.Legal) (w : Word) :
    step (s.withFetchWord 32 w.toNat) = runCommand w s := by
  rw [step_write (s := s.withFetchWord 32 w.toNat) (off := 0x000) hp (by decide) (by decide) rfl, BitVec.ofNat_toNat,
    BitVec.setWidth_eq]
  rfl

theorem runCommand_of_reserved {w : Word} (h : mnemonicAt (bitsOf w 24 8) = none) (s : State) :
    runCommand w s = .next { s with lastcmd := w, err := .badcmd } := by
  rw [runCommand, decode_of_reserved h]
  rfl

theorem runCommand_of_mismatch {w : Word} {m : Mnemonic} (hm : mnemonicAt (bitsOf w 24 8) = some m)
    (h : w &&& rowMask m ≠ rowMatch m) (s : State) :
    runCommand w s = .next { s with lastcmd := w, err := .badcmd } := by
  rw [runCommand, decode_of_mismatch hm h]
  rfl

/-- Settles O3: the write is `runCommand` (`step_withFetchWord`); a word without a row and one that does not meet its
row fail, and one that meets it runs the row's command, of which the word is the encoding (`encode_readFields`). -/
theorem commandWrite : Obligations.CommandWrite := by
  unfold Obligations.CommandWrite
  intro s w hp opc reserved
  have hnone : mnemonicAt (bitsOf w 24 8) = none ↔ reserved := by
    rw [mnemonicAt_eq_none_iff_reserved, toNat_opcodeBits]
  rw [step_withFetchWord hp]
  refine ⟨fun m m' => opcode_injective, ?rows, fun hr => ?reserved, fun m hopc hne => ?mismatch, fun m hopc h => ?row⟩
  case rows =>
    rw [← hnone, Option.eq_none_iff_forall_ne_some]
    exact forall_congr' fun m => not_congr mnemonicAt_opcodeBits_iff
  case reserved => exact runCommand_of_reserved (hnone.mpr hr) s
  case mismatch => exact runCommand_of_mismatch (mnemonicAt_opcodeBits_iff.mpr hopc) hne s
  case row =>
    have hd := decode_of_match (mnemonicAt_opcodeBits_iff.mpr hopc) h
    exact ⟨readFields m w, mnemonic_readFields m w, encode_readFields h, runCommand_of_decode hd s⟩

end Sys2Proof.Machine

/-! PROOFS. The codec and TX_SEND (R73 to R94): the header byte and the CAN identifier as numbers, the commands that pack
and unpack them, and the RSV bit. -/

namespace Sys2Proof.Machine

variable {s t u : State}

/-! ### The header byte (R73, R74) -/

theorem toNat_extract {w : Nat} (x : BitVec w) (lo n : Nat) :
    (x.extractLsb' lo n).toNat = x.toNat / 2 ^ lo % 2 ^ n := by
  rw [BitVec.extractLsb'_toNat, Nat.shiftRight_eq_div_pow]

/-- A register written with a narrower value holds its number. -/
theorem setWidth_eq_ofNat {n : Nat} {x : BitVec n} {k : Nat} (h : x.toNat = k) : x.setWidth 32 = BitVec.ofNat 32 k := by
  rw [← h, BitVec.ofNat_toNat]

theorem eq_ofNat_of_toNat {x : Word} {k : Nat} (h : x.toNat = k) : x = BitVec.ofNat 32 k := by
  rw [← h, BitVec.ofNat_toNat, BitVec.setWidth_eq]

section Header

variable (ty : FrameType) (port : Port) (seq : Seq) (h : Byte)

theorem toNat_headerByte :
    (headerByte ty port seq).toNat = 32 * (frameTypeCode ty).toNat + 4 * port.toNat + seq.toNat := by
  have hseq : (seq.setWidth 8).toNat = seq.toNat := toNat_setWidth_le seq (by decide)
  have hport : (seq.setWidth 8 ||| port.setWidth 8 <<< 2).toNat = seq.toNat + 2 ^ 2 * port.toNat := by
    rw [toNat_or_field _ port 2 (by omega) (by decide), hseq]
  rw [headerByte, BitVec.or_assoc, BitVec.or_comm, BitVec.or_comm (port.setWidth 8 <<< 2),
    toNat_or_field _ _ 5 (by omega) (by decide)]
  omega

theorem toNat_typeCode_headerType : (frameTypeCode (headerType h)).toNat = h.toNat / 32 := by
  rw [headerType, frameTypeCode_frameTypeOf, toNat_extract]
  omega

theorem toNat_headerPort : (headerPort h).toNat = h.toNat / 4 % 8 := toNat_extract ..

theorem toNat_headerSeq : (headerSeq h).toNat = h.toNat % 4 := by
  rw [headerSeq, toNat_extract]
  omega

@[simp] theorem headerType_headerByte : headerType (headerByte ty port seq) = ty := by
  have hcode : (headerByte ty port seq).extractLsb' 5 3 = frameTypeCode ty := by
    apply BitVec.eq_of_toNat_eq
    rw [toNat_extract, toNat_headerByte]
    omega
  rw [headerType, hcode, frameTypeOf_frameTypeCode]

@[simp] theorem headerPort_headerByte : headerPort (headerByte ty port seq) = port := by
  apply BitVec.eq_of_toNat_eq
  rw [toNat_headerPort, toNat_headerByte]
  omega

@[simp] theorem headerSeq_headerByte : headerSeq (headerByte ty port seq) = seq := by
  apply BitVec.eq_of_toNat_eq
  rw [toNat_headerSeq, toNat_headerByte]
  omega

theorem headerByte_fields : headerByte (headerType h) (headerPort h) (headerSeq h) = h := by
  apply BitVec.eq_of_toNat_eq
  rw [toNat_headerByte, toNat_typeCode_headerType, toNat_headerPort, toNat_headerSeq]
  omega

theorem toNat_unpackedHeader :
    (unpackedHeader h).toNat =
      (frameTypeCode (headerType h)).toNat + 2 ^ 8 * (headerPort h).toNat + 2 ^ 16 * (headerSeq h).toNat := by
  have htype : ((frameTypeCode (headerType h)).setWidth 32).toNat = (frameTypeCode (headerType h)).toNat :=
    toNat_setWidth_le _ (by decide)
  have hport := toNat_or_field ((frameTypeCode (headerType h)).setWidth 32) (headerPort h) 8 (by omega) (by decide)
  rw [unpackedHeader, toNat_or_field _ _ 16 (by omega) (by decide), hport, htype]

end Header

/-- Settles O16: each field of the header byte as a number (`toNat_headerByte`, `toNat_headerPort` and the like) gives
both inverses; the codes are R74's table. -/
theorem headerByte_codec : Obligations.HeaderByte := by
  unfold Obligations.HeaderByte
  refine ⟨fun ty port seq => ?_, fun h => ?_, rfl, fun ty => ?_⟩
  · exact ⟨toNat_headerByte .., headerType_headerByte .., headerPort_headerByte .., headerSeq_headerByte ..⟩
  · exact ⟨toNat_typeCode_headerType h, toNat_headerPort h, toNat_headerSeq h, headerByte_fields h⟩
  · cases ty <;> decide

/-- Settles O17: the words are the formats' numbers, and each command's RES0 is `toNat_headerByte` or
`toNat_unpackedHeader`; the round trip unpacks the byte that was packed. -/
theorem headerCommands : Obligations.HeaderCommands := by
  unfold Obligations.HeaderCommands
  refine ⟨fun ty port seq s => ⟨?_, ?_⟩, fun b s => ⟨?_, ?_⟩, fun ty port seq s t u ht hu => ?_⟩
  · exact toNat_formatFH ..
  · rw [← setWidth_eq_ofNat (toNat_headerByte ty port seq)]
    rfl
  · rw [encode, toNat_formatFI, toNat_setWidth_le b (by decide)]
    rfl
  · have hres : unpackedHeader b =
        BitVec.ofNat 32 (b.toNat / 32 + 2 ^ 8 * (b.toNat / 4 % 8) + 2 ^ 16 * (b.toNat % 4)) :=
      eq_ofNat_of_toNat (by rw [toNat_unpackedHeader, toNat_typeCode_headerType, toNat_headerPort, toNat_headerSeq])
    rw [← hres]
    rfl
  · cases ht
    cases hu
    have hbyte : ((headerByte ty port seq).setWidth 32).setWidth 8 = headerByte ty port seq := by simp
    simp only [done_res0, setRes0_res0, hbyte, toNat_unpackedHeader, headerType_headerByte, headerPort_headerByte,
      headerSeq_headerByte]

/-! ### The CAN identifier (R76, R77, R78) -/

section Identifier

variable (dst src : BusAddr) (id : CanId)

theorem toNat_packId : (packId dst src).toNat = 2 ^ 14 * dst.toNat + src.toNat := by
  have hsrc : (src.setWidth 29).toNat = src.toNat := toNat_setWidth_le src (by decide)
  rw [packId, BitVec.or_comm, toNat_or_field _ dst 14 (by omega) (by decide)]
  omega

theorem toNat_idDst : (idDst id).toNat = id.toNat / 2 ^ 14 % 2 ^ 14 := toNat_extract ..

theorem toNat_idSrc : (idSrc id).toNat = id.toNat % 2 ^ 14 := by
  rw [idSrc, toNat_extract]
  omega

theorem toNat_idRsv : (idRsv id).toNat = id.toNat / 2 ^ 28 % 2 := Nat.toNat_testBit ..

@[simp] theorem idDst_packId : idDst (packId dst src) = dst := by
  apply BitVec.eq_of_toNat_eq
  rw [toNat_idDst, toNat_packId]
  omega

@[simp] theorem idSrc_packId : idSrc (packId dst src) = src := by
  apply BitVec.eq_of_toNat_eq
  rw [toNat_idSrc, toNat_packId]
  omega

@[simp] theorem idRsv_packId : idRsv (packId dst src) = false := by
  have hr := toNat_idRsv (packId dst src)
  rw [toNat_packId] at hr
  rw [← Bool.toNat_eq_zero]
  omega

/-- The three fields make up the identifier (R76). -/
theorem toNat_canId_eq_fields :
    id.toNat = 2 ^ 28 * (idRsv id).toNat + 2 ^ 14 * (idDst id).toNat + (idSrc id).toNat := by
  rw [toNat_idRsv, toNat_idDst, toNat_idSrc]
  omega

theorem getLsbD_dstMask : ∀ k < 29, dstMask.getLsbD k = decide (14 ≤ k ∧ k < 28) := by decide

theorem getLsbD_srcMask : ∀ k < 29, srcMask.getLsbD k = decide (k < 14) := by decide

/-- Under DST_MASK an identifier is the one of its destination with source 0 (R77). -/
theorem and_dstMask : id &&& dstMask = packId (idDst id) 0 := by
  apply BitVec.eq_of_getLsbD_eq
  intro k hk
  rw [BitVec.getLsbD_and, getLsbD_dstMask k hk]
  obtain h14 | h14 := Nat.lt_or_ge k 14
  · simp [packId, idDst, h14, Nat.not_le_of_lt h14]
  · obtain ⟨j, rfl⟩ := Nat.exists_eq_add_of_le h14
    have hj : 14 + j < 28 ↔ j < 14 := by omega
    simp [packId, idDst, hk, hj, Bool.and_comm]

theorem and_srcMask : id &&& srcMask = (idSrc id).setWidth 29 := by
  apply BitVec.eq_of_getLsbD_eq
  intro k hk
  rw [BitVec.getLsbD_and, getLsbD_srcMask k hk]
  simp [idSrc, hk, Bool.and_comm]

/-- RSV_MASK is bit 28 alone (R77). -/
theorem and_rsvMask_iff : id &&& rsvMask = rsvMask ↔ idRsv id = true := by
  have hmask : rsvMask = BitVec.twoPow 29 28 := by decide
  have hne : (0 : CanId) ≠ BitVec.twoPow 29 28 := by decide
  rw [hmask, BitVec.and_twoPow, idRsv]
  cases id.getLsbD 28
  · exact ⟨fun h => absurd h hne, nofun⟩
  · exact ⟨fun _ => rfl, fun _ => rfl⟩

/-- The AND and compare test of a destination (R77): `packId own 0` is the shifted address. -/
theorem idDst_eq_iff (own : BusAddr) : idDst id = own ↔ id &&& dstMask = packId own 0 := by
  rw [and_dstMask]
  refine ⟨fun h => h ▸ rfl, fun h => ?_⟩
  rw [← idDst_packId (idDst id) 0, h, idDst_packId]

end Identifier

/-- Settles O18: the fields as numbers give the layout and the inverses; the destination tests are `idDst_eq_iff`, for
OWNADDR and for the broadcast address. -/
theorem identifier : Obligations.Identifier := by
  unfold Obligations.Identifier
  have hpack : ∀ own : BusAddr, packId own 0 = own.setWidth 29 <<< 14 := fun own => by simp [packId]
  refine ⟨fun dst src => ?_, toNat_canId_eq_fields, fun id own => ⟨?_, ?_⟩, rfl, rfl, rfl, fun id => ⟨?_, ?_⟩⟩
  · exact ⟨toNat_packId .., idDst_packId .., idSrc_packId .., idRsv_packId ..⟩
  · rw [idDst_eq_iff, hpack]
  · rw [idDst_eq_iff, hpack]
    rfl
  · exact (and_srcMask id).symm
  · exact (and_rsvMask_iff id).symm

/-! ### ID_PACK, ID_UNPACK and ID_MATCH (R91 to R93) -/

theorem toNat_addrOf (w : Word) : (addrOf w).toNat = w.toNat % 2 ^ 14 := by
  rw [addrOf, toNat_extract]
  omega

/-- RES1 of ID_UNPACK (R92): RSV above the source. -/
theorem toNat_unpackedSrc (id : CanId) :
    ((idSrc id).setWidth 32 ||| bit32 (idRsv id) <<< 16).toNat = (idSrc id).toNat + 2 ^ 16 * (idRsv id).toNat := by
  have hsrc : ((idSrc id).setWidth 32).toNat = (idSrc id).toNat := toNat_setWidth_le _ (by decide)
  rw [toNat_or_bit32 _ _ 16 (by omega) (by decide), hsrc]

/-- Settles O19: RES0 of ID_PACK is `toNat_packId`, the registers of ID_UNPACK are the identifier's fields as numbers, and
the round trip unpacks the identifier that was packed. -/
theorem idCommands : Obligations.IdCommands := by
  unfold Obligations.IdCommands
  refine ⟨toNat_formatF0 .ID_PACK, toNat_formatF0 .ID_UNPACK, fun s => ?_, fun s => ?_, fun s t u ht hu => ?_⟩
  · have hres : (packId (addrOf s.arg0) (addrOf s.arg1)).toNat =
        s.arg0.toNat % 2 ^ 14 * 2 ^ 14 + s.arg1.toNat % 2 ^ 14 := by
      rw [toNat_packId, toNat_addrOf, toNat_addrOf, Nat.mul_comm]
    rw [← setWidth_eq_ofNat hres]
    rfl
  · have hid : (s.arg0.setWidth 29 : CanId).toNat = s.arg0.toNat % 2 ^ 29 := BitVec.toNat_setWidth ..
    have hdst : (idDst (s.arg0.setWidth 29)).toNat = s.arg0.toNat / 2 ^ 14 % 2 ^ 14 := by
      rw [toNat_idDst, hid]
      omega
    have hsrc : ((idSrc (s.arg0.setWidth 29)).setWidth 32 ||| bit32 (idRsv (s.arg0.setWidth 29)) <<< 16).toNat =
        s.arg0.toNat % 2 ^ 14 + s.arg0.toNat / 2 ^ 28 % 2 * 2 ^ 16 := by
      rw [toNat_unpackedSrc, toNat_idSrc, toNat_idRsv, hid]
      omega
    rw [← setWidth_eq_ofNat hdst, ← eq_ofNat_of_toNat hsrc]
    rfl
  · have hid : t.res0.setWidth 29 = packId (addrOf s.arg0) (addrOf s.arg1) := by
      cases ht
      simp
    cases hu
    show ((idDst (t.res0.setWidth 29)).setWidth 32).toNat = _ ∧
      ((idSrc (t.res0.setWidth 29)).setWidth 32 ||| bit32 (idRsv (t.res0.setWidth 29)) <<< 16).toNat = _
    rw [toNat_setWidth_le _ (by decide), toNat_unpackedSrc, hid, idDst_packId, idSrc_packId, idRsv_packId, toNat_addrOf,
      toNat_addrOf]
    exact ⟨rfl, rfl⟩

/-- RES0 of ID_MATCH as a number (R93). -/
theorem matchBits_eq (own dst : BusAddr) :
    matchBits own dst =
      BitVec.ofNat 32 ((if dst = own then 1 else 0) + 2 * (if dst = addrBcast then 1 else 0) +
        4 * (if dst = own ∨ dst = addrBcast then 1 else 0)) := by
  have hbits : ∀ me bc : Bool, bit32 me ||| bit32 bc <<< 1 ||| bit32 (me || bc) <<< 2 =
      BitVec.ofNat 32 (me.toNat + 2 * bc.toNat + 4 * (me || bc).toNat) := by decide
  rw [matchBits, hbits, ← Bool.decide_or]
  simp only [Bool.toNat, Bool.cond_decide]

/-- Settles O20: the word is `matchBits_eq` on the destination as a number. -/
theorem idMatch : Obligations.IdMatch := by
  unfold Obligations.IdMatch
  refine ⟨toNat_formatF0 .ID_MATCH, fun s => ?_⟩
  intro d me bc accepted
  have hd : (idDst (s.arg0.setWidth 29)).toNat = d := by
    rw [toNat_idDst, BitVec.toNat_setWidth]
    omega
  have hown : d = s.ownaddr.toNat ↔ idDst (s.arg0.setWidth 29) = s.ownaddr := by rw [← hd, BitVec.toNat_inj]
  have hbc : d = 0x3FFF ↔ idDst (s.arg0.setWidth 29) = addrBcast := by
    rw [← hd, ← BitVec.toNat_inj]
    rfl
  simp only [me, bc, accepted, hown, hbc, ← matchBits_eq]
  rfl

/-! ### TX_SEND (R94, R153) -/

section TxSend

variable {ty : FrameType} {port : Port} {seq : Seq} {len : BitVec 4}

/-- What TX_SEND checks first (R94). -/
theorem txSend_badarg_iff :
    (decide (7 < len.toNat) || above14 s.arg0) = true ↔ 7 < len.toNat ∨ 0x3FFF < s.arg0.toNat := by
  rw [Bool.or_eq_true, decide_eq_true_eq, above14_iff]

theorem execTxSend_badarg (h : 7 < len.toNat ∨ 0x3FFF < s.arg0.toNat) :
    execTxSend ty port seq len s = .next (fail .badarg s) := by
  rw [execTxSend, if_pos (txSend_badarg_iff.mpr h)]

variable (hl : len.toNat ≤ 7) (ha : s.arg0.toNat ≤ 0x3FFF)
include hl ha

theorem execTxSend_notup (hr : s.run = false) : execTxSend ty port seq len s = .next (fail .notup s) := by
  rw [execTxSend, if_neg (by rw [txSend_badarg_iff]; omega), hr]
  rfl

/-- A frame is offered: the TX port's answer decides (R153). -/
theorem execTxSend_offered (hr : s.run = true) :
    execTxSend ty port seq len s =
      if txAnswer s then .next (done (answerUsed (sent (txFrame ty port seq len s) s)))
      else .next (fail .ioerr (answerUsed s)) := by
  rw [execTxSend, if_neg (by rw [txSend_badarg_iff]; omega), hr]
  rfl

omit ha in
/-- The counters of a sent frame move by 1 and by its DLC (R94). -/
theorem sent_txFrame :
    sent (txFrame ty port seq len s) s =
      { s with txout := s.txout ++ [txFrame ty port seq len s], txframes := s.txframes + 1
               txbytes := s.txbytes + BitVec.ofNat 32 (1 + len.toNat) } := by
  rw [← setWidth_eq_ofNat (dlc_toNat hl)]
  rfl

omit hl in
theorem toNat_txFrame_id : (txFrame ty port seq len s).id.toNat = s.arg0.toNat * 2 ^ 14 + s.ownaddr.toNat := by
  have haddr : (addrOf s.arg0).toNat = s.arg0.toNat := by
    rw [toNat_addrOf]
    omega
  rw [txFrame, toNat_packId, haddr, Nat.mul_comm]

end TxSend

theorem txFrame_data (ty : FrameType) (port : Port) (seq : Seq) (len : BitVec 4) (s : State) :
    (txFrame ty port seq len s).data =
      BitVec.ofNat 8 ((frameTypeCode ty).toNat * 32 + port.toNat * 4 + seq.toNat) ::
        (List.range len.toNat).map (xread s) := by
  have hbyte : headerByte ty port seq = BitVec.ofNat 8 ((frameTypeCode ty).toNat * 32 + port.toNat * 4 + seq.toNat) := by
    rw [Nat.mul_comm, Nat.mul_comm port.toNat, ← toNat_headerByte, BitVec.ofNat_toNat, BitVec.setWidth_eq]
  simp only [txFrame, xreadRange, Nat.zero_add, ← hbyte]

/-- Settles O22: the checks in order, then the port's answer (`execTxSend_offered`); the frame is `txFrame`. -/
theorem txSend : Obligations.TxSend := by
  unfold Obligations.TxSend
  intro ty port seq len s
  refine ⟨toNat_formatFH .., fun _ _ => rfl, execTxSend_badarg, execTxSend_notup, fun hl ha hr ht => ?refused,
    fun hl ha hr ht => ⟨txFrame ty port seq len s, toNat_txFrame_id ha, rfl, rfl, dlc_toNat hl, txFrame_data .., ?sent⟩⟩
  case refused =>
    refine (execTxSend_offered hl ha hr).trans ?_
    rw [ht]
    rfl
  case sent =>
    refine (execTxSend_offered hl ha hr).trans ?_
    rw [ht, sent_txFrame hl]
    rfl

/-! ### The RSV bit (R78) -/

/-- A step that takes the host's write of CMD runs the word written. -/
theorem runCommand_of_step {w : Word} {ts : List Turn} (hag : s.agenda = .write 4 s.params.base w :: ts)
    (h : step s = .next t) : runCommand w { s with agenda := ts } = .next t := by
  rw [step_turn hag, runTurn, hostWrite] at h
  split at h
  · rwa [Nat.sub_self] at h
  · have hreach : reaches s.params 4 s.params.base = true := (reaches_iff ..).mpr (by omega)
    rw [if_pos hreach] at h
    cases h

/-- A frame that TX_SEND adds is one the block may send (R40, R78, R79). -/
theorem execTxSend_frame_ok {ty : FrameType} {port : Port} {seq : Seq} {len : BitVec 4} {f : Frame}
    (h : execTxSend ty port seq len s = .next t) (hf : t.txout = s.txout ++ [f]) : TxFrameOk f := by
  obtain hfail | ⟨hl, -, -, ⟨-, rfl⟩ | ⟨-, rfl⟩⟩ := execTxSend_cases h
  · obtain rfl | rfl := hfail <;> simp at hf
  · simp at hf
  · have hframe : txFrame ty port seq len s = f := by simpa [sent] using hf
    exact hframe ▸ txFrame_ok hl s

theorem idDst_xor_rsvMask (id : CanId) : idDst (id ^^^ rsvMask) = idDst id := by
  rw [idDst, BitVec.extractLsb'_xor]
  exact BitVec.xor_zero

theorem idSrc_xor_rsvMask (id : CanId) : idSrc (id ^^^ rsvMask) = idSrc id := by
  rw [idSrc, BitVec.extractLsb'_xor]
  exact BitVec.xor_zero

/-- The frame with its RSV bit flipped. -/
def flipRsv (f : Frame) : Frame := { f with id := f.id ^^^ rsvMask }

section FlipRsv

variable (f : Frame) (i : Nat)

/-! The views of R128 that read the identifier are those of its two addresses; the others do not look at it. -/

@[simp] theorem frameDst_flipRsv : frameDst (flipRsv f) = frameDst f := idDst_xor_rsvMask f.id
@[simp] theorem frameSrc_flipRsv : frameSrc (flipRsv f) = frameSrc f := idSrc_xor_rsvMask f.id
@[simp] theorem frameType_flipRsv : frameType (flipRsv f) = frameType f := rfl
@[simp] theorem framePort_flipRsv : framePort (flipRsv f) = framePort f := rfl
@[simp] theorem frameSeq_flipRsv : frameSeq (flipRsv f) = frameSeq f := rfl
@[simp] theorem frameFlags_flipRsv : frameFlags (flipRsv f) = frameFlags f := rfl
@[simp] theorem frameLen_flipRsv : frameLen (flipRsv f) = frameLen f := rfl
@[simp] theorem framePayload_flipRsv (k : Nat) : framePayload (flipRsv f) k = framePayload f k := rfl
@[simp] theorem frameHalf_flipRsv (k : Nat) : frameHalf (flipRsv f) k = frameHalf f k := rfl

@[simp] theorem mkEvent_flipRsv : mkEvent (flipRsv f) = mkEvent f := by
  funext kind i value flags
  simp [mkEvent]

@[simp] theorem routeData_flipRsv (s : State) : routeData s (flipRsv f) = routeData s f := by
  simp [routeData]

@[simp] theorem transferFails_flipRsv : transferFails (flipRsv f) = transferFails f := by
  funext i value reason s
  simp [transferFails]

@[simp] theorem transferDone_flipRsv : transferDone (flipRsv f) = transferDone f := by
  funext i seq value s
  simp [transferDone]

@[simp] theorem finishAsm_flipRsv : finishAsm (flipRsv f) i s = finishAsm f i s := by
  simp [finishAsm]

@[simp] theorem startAsm_flipRsv : startAsm (flipRsv f) i s = startAsm f i s := by
  simp [startAsm]

@[simp] theorem continues_flipRsv (x : Slot) : continues x (flipRsv f) = continues x f := by
  rw [continues, frameSrc_flipRsv]
  rfl

/-- Every handler reads the frame through its views only. -/
theorem handle_flipRsv (s : State) : handle (flipRsv f) s = handle f s := by
  unfold handle
  rw [frameType_flipRsv]
  cases frameType f with
  | first => simp [handleFirst]
  | next => simp [handleNext]
  | last => simp [handleLast]
  | single => simp [handleSingle]
  | connect =>
    show handleConnect (flipRsv f) s = handleConnect f s
    rw [handleConnect, mkEvent_flipRsv, frameSrc_flipRsv]
    rfl
  | disconnect => simp [handleDisconnect]
  | stat => simp [handleStat]
  | ack => simp [handleAck]

theorem receive_flipRsv (s : State) : receive (flipRsv f) s = receive f s := by
  have hframe : notCannet (flipRsv f) = notCannet f := rfl
  have hdst : notForMe s (flipRsv f) = notForMe s f := by simp [notForMe]
  have hshort : malformed (flipRsv f) = malformed f := rfl
  have htake : take (flipRsv f) = take f := rfl
  rw [receive, hframe, hdst, hshort, handle_flipRsv, htake]
  rfl

end FlipRsv

/-- Settles O21: only TX_SEND adds a frame (O23), and its frame has RSV = 0; no handler looks at RSV
(`receive_flipRsv`); ID_UNPACK puts RSV in bit 16 of RES1. -/
theorem reservedIdBit : Obligations.ReservedIdBit := by
  unfold Obligations.ReservedIdBit
  refine ⟨fun s t f hstep hf => ?_, fun s f => (receive_flipRsv f s).symm, fun s t h => ?_⟩
  · obtain ⟨ty, port, seq, len, -, ⟨w, ts, hag, hd⟩, -⟩ := onlyTxSendTransmits s t hstep (by simp [hf])
    have hrun := runCommand_of_step hag hstep
    rw [runCommand_of_decode hd] at hrun
    obtain ⟨-, -, -, -, -, hrsv⟩ := execTxSend_frame_ok hrun hf
    exact hrsv
  · cases h
    show ((idSrc (s.arg0.setWidth 29)).setWidth 32 ||| bit32 (idRsv (s.arg0.setWidth 29)) <<< 16).getLsbD 16 = _
    cases idRsv (s.arg0.setWidth 29) <;> simp [bit32]

end Sys2Proof.Machine

/-! PROOFS. A canonical transfer through the dispatcher (R87, R88, R128 to R140): what the handlers read of its frames, how
a chain written piece by piece uses the pool, one turn for each type of frame, and the transfer by induction over its
frames. -/

namespace Sys2Proof.Machine

variable {s t u : State}

/-! ### The frames of a transfer (R73, R79 to R81, R128) -/

section WireFrame

variable (dst src : BusAddr) (ty : FrameType) (port : Port) (seq : Seq) (size crc : Half) {b : List Byte}

@[simp] theorem frameType_wireFrame : frameType (wireFrame dst src ty port seq b) = ty := headerType_headerByte ..
@[simp] theorem framePort_wireFrame : framePort (wireFrame dst src ty port seq b) = port := headerPort_headerByte ..
@[simp] theorem frameSeq_wireFrame : frameSeq (wireFrame dst src ty port seq b) = seq := headerSeq_headerByte ..
@[simp] theorem frameDst_wireFrame : frameDst (wireFrame dst src ty port seq b) = dst := idDst_packId ..
@[simp] theorem frameSrc_wireFrame : frameSrc (wireFrame dst src ty port seq b) = src := idSrc_packId ..

theorem frameLen_wireFrame (hb : b.length ≤ 7) : frameLen (wireFrame dst src ty port seq b) = 1 + b.length := by
  rw [frameLen, wireFrame, BitVec.toNat_ofNat]
  omega

theorem framePayload_wireFrame (hb : b.length ≤ 7) (k : Nat) :
    framePayload (wireFrame dst src ty port seq b) (k + 1) = b.drop k := by
  rw [framePayload, frameLen_wireFrame dst src ty port seq hb, Nat.add_comm 1]
  simp [wireFrame]

/-- A 16-bit field is made of its two bytes, the low one first (R46). -/
theorem half_of_bytes (v : Half) :
    (v.extractLsb' 0 8).setWidth 16 ||| (v.extractLsb' 8 8).setWidth 16 <<< 8 = v := by
  have hlo : ((v.extractLsb' 0 8).setWidth 16).toNat = v.toNat % 2 ^ 8 := by
    rw [toNat_setWidth_le _ (by decide), toNat_extract]
    omega
  apply BitVec.eq_of_toNat_eq
  rw [toNat_or_field _ _ 8 (by omega) (by decide), hlo, toNat_extract]
  omega

/-- SIZE of a `first` frame (R81). -/
theorem frameHalf_size : frameHalf (wireFrame dst src ty port seq (firstPayload size crc b)) 1 = size :=
  half_of_bytes size

/-- CRC of a `first` frame (R81). -/
theorem frameHalf_crc : frameHalf (wireFrame dst src ty port seq (firstPayload size crc b)) 3 = crc :=
  half_of_bytes crc

theorem length_firstPayload (b : List Byte) : (firstPayload size crc b).length = 4 + b.length := List.length_append ..

end WireFrame

/-! ### A chain written piece by piece (R104) -/

/-- The chunks have no gap but the last one's room. -/
def Packed (ks : List Chunk) : Prop := room ks + chunksTotal ks = chunkSize * ks.length

theorem packed_nil : Packed [] := rfl

theorem room_append {ls : List Chunk} (h : ls ≠ []) (ks : List Chunk) : room (ks ++ ls) = room ls := by
  rw [room, room, List.getLast?_append_of_ne_nil _ h]

/-- Chunks put behind a chain whose last chunk is full. -/
theorem Packed.append {ks ls : List Chunk} (h : Packed ks) (hl : Packed ls) (hfull : ls = [] ∨ room ks = 0) :
    Packed (ks ++ ls) := by
  by_cases hne : ls = []
  · rwa [hne, List.append_nil]
  · have h0 := hfull.resolve_left hne
    simp only [Packed, room_append hne, chunksTotal_append, List.length_append, chunkSize] at h hl ⊢
    omega

theorem newChunks_nil (fuel : Nat) : newChunks fuel [] = [] := by cases fuel <;> rfl

theorem packed_newChunks (fuel : Nat) (b : List Byte) (h : b.length ≤ fuel) : Packed (newChunks fuel b) := by
  induction fuel generalizing b with
  | zero => exact packed_nil
  | succ n ih =>
    unfold newChunks
    split
    · exact packed_nil
    · have hhead : Packed [{ data := b.take chunkSize, seek := 0 }] := by
        simp [Packed, room, fill, chunkSize]
      refine hhead.append (ls := newChunks n (b.drop chunkSize)) (ih _ (by simp [chunkSize]; omega)) ?_
      obtain hle | hle := Nat.le_total b.length chunkSize
      · exact .inl (by rw [List.drop_eq_nil_of_le hle, newChunks_nil])
      · exact .inr (by simp [room, fill]; omega)

/-- A write fills the last chunk before it takes another (R104), so it leaves no gap. -/
theorem Packed.writeChunks {ks : List Chunk} (h : Packed ks) (hk : ∀ k ∈ ks, ChunkOk k) (b : List Byte) :
    Packed (writeChunks ks b) := by
  obtain rfl | ⟨as, k, rfl⟩ := List.eq_nil_or_concat ks
  · simpa [Machine.writeChunks, room, fillLast] using packed_newChunks b.length b le_rfl
  · rw [List.concat_eq_append] at h hk ⊢
    obtain ⟨hseek, hfill⟩ := hk k (by simp)
    rw [writeChunks_append_singleton, List.append_cons]
    refine Packed.append ?_ (packed_newChunks _ _ (by simp)) ?_
    · simp only [Packed, room_append_singleton, chunksTotal_append, chunksTotal_cons, chunksTotal_nil, fill,
        List.length_append, List.length_take, List.length_singleton, chunkSize] at h hseek hfill ⊢
      omega
    · obtain hle | hle := Nat.le_total b.length (chunkSize - fill k)
      · exact .inl (by rw [Nat.min_eq_right hle, List.drop_length, newChunks_nil])
      · refine .inr ?_
        simp only [room_append_singleton, fill, List.length_append, List.length_take] at hle ⊢
        omega

/-- A piece of `n` bytes fits the pool when all `len` bytes do: the chain takes one chunk for each 32 bytes. -/
theorem Packed.need_le {ks : List Chunk} (h : Packed ks) {n len free : Nat} (hlen : chunksTotal ks + n ≤ len)
    (hpool : chunkCount len ≤ free + ks.length) : need ks n ≤ free := by
  simp only [Packed, need, chunkCount, chunkSize] at *
  omega

/-! ### A transfer and the slot that takes it (R87, R132) -/

/-- A transfer of `data` from `src` to `dst`, and the slot that takes it. -/
structure Transfer where
  slot : Nat
  dst : BusAddr
  src : BusAddr
  port : Port
  seq : Seq
  data : List Byte

/-- A frame of the transfer. -/
abbrev Transfer.frame (x : Transfer) (ty : FrameType) (b : List Byte) : Frame :=
  wireFrame x.dst x.src ty x.port x.seq b

/-- Its `first` frame, which announces the data's length and CRC (R81). -/
abbrev Transfer.firstFrame (x : Transfer) (b : List Byte) : Frame :=
  x.frame .first (firstPayload (BitVec.ofNat 16 x.data.length) (crc16 x.data) b)

/-- The slot as a `first` frame of the transfer leaves it (R138). -/
def Transfer.started (x : Transfer) (y : Slot) : Slot :=
  { y with
    asmActive := true, asmErr := false, asmSeq := x.seq, asmSrc := x.src
    asmSize := BitVec.ofNat 16 x.data.length, asmCrcExp := crc16 x.data, asmCrc := crcSeed }

/-- The slot takes the transfer's data, and there is room for all of it in the slot's chains, the pool (with the chunks
the assembly chain holds) and the event FIFO. -/
structure Accepts (x : Transfer) (s : State) : Prop where
  inv : Invariant s
  run : s.run = true
  own : s.ownaddr = x.dst
  fifo : evCount s < s.params.evqDepth
  slot_lt : x.slot < s.params.nslot
  route : ∀ ty b, routeData s (x.frame ty b) = some x.slot
  size : x.data.length ≤ 0xFFFF
  asmCap : x.data.length ≤ (chainAt s (asmChain x.slot)).maxcap.toNat
  readyCap : totalSize s (readyChain x.slot) + x.data.length ≤ (chainAt s (readyChain x.slot)).maxcap.toNat
  pool : chunkCount x.data.length ≤ freeChunks s + (chainAt s (asmChain x.slot)).chunks.length

/-- What the slot holds of a transfer of which `got` has come (R135, R138). -/
structure AsmFields (x : Transfer) (got : List Byte) (y : Slot) : Prop where
  active : y.asmActive = true
  noErr : y.asmErr = false
  seq : y.asmSeq = x.seq
  src : y.asmSrc = x.src
  size : y.asmSize = BitVec.ofNat 16 x.data.length
  crcExp : y.asmCrcExp = crc16 x.data
  crc : y.asmCrc = crc16 got

/-- The transfer is in progress on the slot and `got` is what has come of its data. -/
structure Assembling (x : Transfer) (got : List Byte) (s : State) : Prop extends Accepts x s where
  fields : AsmFields x got (slotAt s x.slot)
  bytes : chainBytes s (asmChain x.slot) = got
  packed : Packed (chainAt s (asmChain x.slot)).chunks

/-- Routing looks at the registrations only (R132). -/
theorem routeData_congr (hp : t.params = s.params) (hr : ∀ j, (slotAt t j).role = (slotAt s j).role)
    (hs : SameTables s t) (f : Frame) : routeData t f = routeData s f := by
  have hport := fun j => (hs.2 j).2.1
  have hremote := fun j => (hs.2 j).2.2
  simp only [routeData, findPeer, findPort, hp, hr, hport, hremote]

section Transfer

variable {x : Transfer} {got b : List Byte}

/-- Work on the transfer's slot that leaves its ready chain, and takes chunks for its assembly chain only. -/
theorem Accepts.of_work (h : Accepts x s) (inv : Invariant t) (only : OnlyTable s t) (work : SlotWork x.slot s t)
    (tables : SameTables s t) (ready : chainAt t (readyChain x.slot) = chainAt s (readyChain x.slot))
    (pool : freeChunks t + (chainAt t (asmChain x.slot)).chunks.length =
      freeChunks s + (chainAt s (asmChain x.slot)).chunks.length) : Accepts x t where
  inv := inv
  run := by rw [only]; exact h.run
  own := by rw [only]; exact h.own
  fifo := by rw [evCount, work.events, only.params]; exact h.fifo
  slot_lt := by rw [only.params]; exact h.slot_lt
  route ty b := by rw [routeData_congr only.params work.role tables]; exact h.route ty b
  size := h.size
  asmCap := by rw [tables.1]; exact h.asmCap
  readyCap := by rw [totalSize, ready]; exact h.readyCap
  pool := by rw [pool]; exact h.pool

theorem Accepts.role (h : Accepts x s) :
    (slotAt s x.slot).role = .bound ∨ (slotAt s x.slot).role = .connected :=
  (routeData_some (h.route .first [])).2

theorem Accepts.lt_slots (h : Accepts x s) : x.slot < s.slots.length := h.inv.shaped.1 ▸ h.slot_lt

theorem Accepts.lt_chains (h : Accepts x s) : asmChain x.slot < s.chains.length :=
  h.inv.shaped.2 ▸ asmChain_lt h.slot_lt

/-- abort_asm gives the assembly chain's chunks back to the pool (R122). -/
theorem Accepts.abortAsm (h : Accepts x s) :
    Accepts x (abortAsm x.slot s) ∧ (chainAt (Machine.abortAsm x.slot s) (asmChain x.slot)).chunks = [] ∧
      chainAt (Machine.abortAsm x.slot s) (readyChain x.slot) = chainAt s (readyChain x.slot) := by
  have hempty : chainAt (Machine.abortAsm x.slot s) (asmChain x.slot) =
      { chainAt s (asmChain x.slot) with chunks := [] } := chainAt_setChain_same (s := setSlot x.slot _ s) _ h.lt_chains
  have hready : chainAt (Machine.abortAsm x.slot s) (readyChain x.slot) = chainAt s (readyChain x.slot) :=
    chainAt_setChain_ne (s := setSlot x.slot _ s) _ (Ne.symm (readyChain_ne_asmChain _ _))
  have hpool : freeChunks (Machine.abortAsm x.slot s) + 0 = freeChunks s + _ :=
    freeChunks_setChain h.inv (asmChain_lt h.slot_lt) { chainAt s (asmChain x.slot) with chunks := [] }
      (Nat.le_trans h.inv.pool (Nat.le_add_right ..))
  exact ⟨h.of_work (h.inv.abortAsm h.slot_lt) (onlyTable_abortAsm ..) (.abortAsm ..) (sameTables_abortAsm ..) hready
    (by rw [hempty]; exact hpool), by rw [hempty], hready⟩

theorem startAsm_firstFrame (x : Transfer) (b : List Byte) (s : State) :
    startAsm (x.firstFrame b) x.slot s = setSlot x.slot (x.started (slotAt s x.slot)) s := by
  rw [startAsm, frameSeq_wireFrame, frameSrc_wireFrame, frameHalf_size, frameHalf_crc]
  rfl

/-- The `first` frame starts the assembly, with nothing of the data yet (R138). -/
theorem Accepts.startAsm (h : Accepts x s) (hempty : (chainAt s (asmChain x.slot)).chunks = []) (b : List Byte) :
    Assembling x [] (startAsm (x.firstFrame b) x.slot s) := by
  have hacc : Accepts x (Machine.startAsm (x.firstFrame b) x.slot s) :=
    h.of_work (h.inv.startAsm h.slot_lt h.role) rfl (.startAsm ..) (sameTables_startAsm ..) rfl rfl
  have hslot : slotAt (Machine.startAsm (x.firstFrame b) x.slot s) x.slot = x.started (slotAt s x.slot) := by
    rw [startAsm_firstFrame, slotAt_setSlot_same _ h.lt_slots]
  have hchunks : (chainAt (Machine.startAsm (x.firstFrame b) x.slot s) (asmChain x.slot)).chunks = [] := hempty
  exact
    { hacc with
      fields := hslot ▸ ⟨rfl, rfl, rfl, rfl, rfl, rfl, rfl⟩
      bytes := by rw [chainBytes, hchunks]; rfl
      packed := by rw [hchunks]; exact packed_nil }

/-- A piece of the data is written to the assembly chain: the room for it was there from the start (R104). -/
theorem Accepts.write (h : Accepts x s) (hp : Packed (chainAt s (asmChain x.slot)).chunks)
    (hb : totalSize s (asmChain x.slot) + b.length ≤ x.data.length) :
    ∃ w, chainWrite (asmChain x.slot) b s = .ok w ∧ Accepts x w ∧ w.slots = s.slots ∧ w.events = s.events ∧
      chainAt w (readyChain x.slot) = chainAt s (readyChain x.slot) ∧
      chainBytes w (asmChain x.slot) = chainBytes s (asmChain x.slot) ++ b ∧
      Packed (chainAt w (asmChain x.slot)).chunks := by
  have hc := asmChain_lt h.slot_lt
  obtain ⟨w, hw, -, hother, -, hbytes, -, hlen, hfree, hchunks⟩ :=
    chainWrite_accepted h.inv hc (Nat.not_lt.mpr (hb.trans h.asmCap)) (hp.need_le hb h.pool)
  obtain ⟨-, hev, hslots⟩ := chainWrite_same hw
  have hready := hother _ (readyChain_ne_asmChain x.slot x.slot)
  have hacc : Accepts x w :=
    h.of_work (h.inv.chainWrite hc hw) (onlyTable_chainWrite hw) (.chainWrite hw) (sameTables_chainWrite hw) hready
      (by omega)
  refine ⟨w, hw, hacc, hslots, hev, hready, hbytes, ?_⟩
  rw [hchunks]
  split
  · exact hp
  · exact hp.writeChunks (h.inv.chainOk hc).1 b

theorem Assembling.totalSize_asm (h : Assembling x got s) : totalSize s (asmChain x.slot) = got.length := by
  rw [← chainBytes_length, h.bytes]

/-- A piece of the data is appended and folded into the CRC (R135). -/
theorem Assembling.append (h : Assembling x got s) (hb : got.length + b.length ≤ x.data.length) :
    Assembling x (got ++ b) (appendAsm x.slot b s) ∧
      chainAt (appendAsm x.slot b s) (readyChain x.slot) = chainAt s (readyChain x.slot) := by
  obtain ⟨w, hw, hacc, hslots, -, hready, hbytes, hpacked⟩ :=
    h.write h.packed (b := b) (by rw [← chainBytes_length, h.bytes]; exact hb)
  have hsl : slotAt w x.slot = slotAt s x.slot := by rw [slotAt, hslots, slotAt]
  have happ : appendAsm x.slot b s =
      setSlot x.slot { slotAt s x.slot with asmCrc := crcFold (slotAt s x.slot).asmCrc b } w := by
    rw [appendAsm, h.fields.noErr, hw, ← hsl]
    rfl
  have hslot : slotAt (appendAsm x.slot b s) x.slot =
      { slotAt s x.slot with asmCrc := crcFold (slotAt s x.slot).asmCrc b } := by
    rw [happ, slotAt_setSlot_same _ hacc.lt_slots]
  have hchain : ∀ c, chainAt (appendAsm x.slot b s) c = chainAt w c := fun c => by rw [happ]; rfl
  have hacc' : Accepts x (appendAsm x.slot b s) := by
    have hinv := (h.inv.appendAsm (b := b) h.slot_lt h.fields.active).1
    rw [happ] at hinv ⊢
    exact hacc.of_work hinv rfl (.setSlot (by rw [hsl])) (sameTables_setSlot (by rw [hsl]; exact ⟨rfl, rfl, rfl⟩)) rfl rfl
  have hcrc : crcFold (slotAt s x.slot).asmCrc b = crc16 (got ++ b) := by
    rw [h.fields.crc]
    exact List.foldl_append.symm
  have hasm : Assembling x (got ++ b) (appendAsm x.slot b s) :=
    { hacc' with
      fields := hslot ▸ { h.fields with crc := hcrc }
      bytes := by rw [chainBytes, hchain, ← h.bytes]; exact hbytes
      packed := by rw [hchain]; exact hpacked }
  exact ⟨hasm, by rw [hchain, hready]⟩

end Transfer

/-! ### The transfer's end (R136, R137) -/

section Delivery

variable {x : Transfer} {got b : List Byte} {ty : FrameType} {fs rest : List Frame}

/-- The XFER_OK of a transfer (R134, R136). -/
def Transfer.event (x : Transfer) : Event :=
  { kind := .xferOk, slot := BitVec.ofNat 4 x.slot, port := x.port, seq := x.seq, src := x.src
    value := BitVec.ofNat 16 x.data.length, flags := 0 }

/-- From `s` to `t` the ready chain has gained the transfer's data, its XFER_OK is queued and the slot is idle again. -/
structure Delivered (x : Transfer) (s t : State) : Prop where
  asmEmpty : chainBytes t (asmChain x.slot) = []
  ready : chainBytes t (readyChain x.slot) = chainBytes s (readyChain x.slot) ++ x.data
  events : t.events = s.events ++ [x.event]
  rxSeq : (slotAt t x.slot).rxSeq = x.seq
  idle : (slotAt t x.slot).asmActive = false

theorem mkEvent_frame (x : Transfer) (ty : FrameType) (b : List Byte) :
    mkEvent (x.frame ty b) .xferOk x.slot (BitVec.ofNat 16 x.data.length) 0 = x.event := by
  rw [mkEvent, framePort_wireFrame, frameSeq_wireFrame, frameSrc_wireFrame]
  rfl

/-- The data in the assembly chain is moved to the ready chain, which has room for it (R106, R136, R137). -/
theorem Accepts.move (h : Accepts x s) (hb : chainBytes s (asmChain x.slot) = x.data) :
    ∃ m, chainMove (readyChain x.slot) (asmChain x.slot) s = .ok m ∧ m.slots = s.slots ∧ m.events = s.events ∧
      chainBytes m (asmChain x.slot) = [] ∧
      chainBytes m (readyChain x.slot) = chainBytes s (readyChain x.slot) ++ x.data := by
  have hcap := h.readyCap
  have hsz : totalSize s (asmChain x.slot) = x.data.length := by rw [← chainBytes_length, hb]
  obtain ⟨m, hm, -, -, -, -, hready, hasm, -⟩ :=
    chainMove_accepted h.inv (readyChain_lt h.slot_lt) (asmChain_lt h.slot_lt) (readyChain_ne_asmChain _ _)
      (by rw [hsz]; omega)
  obtain ⟨-, hev, hsl⟩ := chainMove_same hm
  exact ⟨m, hm, hsl, hev, hasm, by rw [hready, hb]⟩

/-- finish delivers a complete assembly: there is no error, and the size and the CRC are those announced (R136). -/
theorem Assembling.finish (h : Assembling x x.data s) (b : List Byte) :
    Delivered x s (finishAsm (x.frame .last b) x.slot s) := by
  obtain ⟨m, hm, hsl, hev, hasm, hready⟩ := h.move h.bytes
  have hsize : x.data.length = (slotAt s x.slot).asmSize.toNat := by
    have hle := h.size
    rw [h.fields.size, BitVec.toNat_ofNat]
    omega
  have hlt : x.slot < m.slots.length := hsl ▸ h.lt_slots
  have heq : finishAsm (x.frame .last b) x.slot s =
      asmEnds x.slot (transferDone (x.frame .last b) x.slot x.seq (BitVec.ofNat 16 x.data.length) m) := by
    unfold finishAsm
    dsimp only
    rw [if_neg (by rw [h.fields.noErr]; exact Bool.false_ne_true), if_neg (by rw [h.totalSize_asm]; exact not_not.mpr hsize),
      if_neg (by rw [h.fields.crc, h.fields.crcExp]; exact not_not.mpr rfl), hm, h.totalSize_asm, h.fields.seq]
  have hslot : slotAt (asmEnds x.slot (transferDone (x.frame .last b) x.slot x.seq (BitVec.ofNat 16 x.data.length) m))
      x.slot = { slotAt m x.slot with rxSeq := x.seq, asmActive := false, asmErr := false } := by
    rw [asmEnds, slotAt_setSlot_same _ (by simpa [transferDone] using hlt), transferDone, slotAt_post,
      slotAt_setSlot_same _ hlt]
  rw [heq]
  exact
    { asmEmpty := hasm
      ready := hready
      events := by
        rw [← mkEvent_frame x .last b, ← hev]
        rfl
      rxSeq := by rw [hslot]
      idle := by rw [hslot] }

/-! ### The handlers on the transfer's frames (R137 to R140) -/

theorem Accepts.handle_first (h : Accepts x s) (hb : b.length ≤ 3) :
    handle (x.firstFrame b) s = some (appendAsm x.slot b
      (Machine.startAsm (x.firstFrame b) x.slot (Machine.abortAsm x.slot s))) := by
  have hpay : framePayload (x.firstFrame b) 5 = b :=
    framePayload_wireFrame _ _ _ _ _ (by rw [length_firstPayload]; omega) 4
  rw [handle, frameType_wireFrame]
  show handleFirst _ s = _
  rw [handleFirst, h.route, hpay]
  rfl

theorem Assembling.continues (h : Assembling x got s) (ty : FrameType) (b : List Byte) :
    continues (slotAt s x.slot) (x.frame ty b) = true := by
  simp [Machine.continues, h.fields.active, h.fields.seq, h.fields.src]

theorem Assembling.handle_next (h : Assembling x got s) (hb : b.length ≤ 7) :
    handle (x.frame .next b) s = some (appendAsm x.slot b s) := by
  have hpay : framePayload (x.frame .next b) 1 = b := framePayload_wireFrame _ _ _ _ _ hb 0
  rw [handle, frameType_wireFrame]
  show handleNext _ s = _
  unfold handleNext
  simp only [h.route, h.continues, if_true, hpay]

theorem Assembling.handle_last (h : Assembling x got s) (hb : b.length ≤ 7) :
    handle (x.frame .last b) s = some (finishAsm (x.frame .last b) x.slot (appendAsm x.slot b s)) := by
  have hpay : framePayload (x.frame .last b) 1 = b := framePayload_wireFrame _ _ _ _ _ hb 0
  rw [handle, frameType_wireFrame]
  show handleLast _ s = _
  unfold handleLast
  simp only [h.route, h.continues, if_true, hpay]

/-- A `single` frame's data passes through the assembly chain (R137). -/
theorem Accepts.handle_single (h : Accepts x s) (hb : x.data.length ≤ 7) :
    ∃ t, handle (x.frame .single x.data) s = some t ∧ Delivered x s t := by
  have hpay : framePayload (x.frame .single x.data) 1 = x.data := framePayload_wireFrame _ _ _ _ _ hb 0
  have hlen : frameLen (x.frame .single x.data) - 1 = x.data.length := by
    rw [frameLen_wireFrame _ _ _ _ _ hb, Nat.add_sub_cancel_left]
  obtain ⟨ha, hempty, haready⟩ := h.abortAsm
  have hasm : chainBytes (Machine.abortAsm x.slot s) (asmChain x.slot) = [] := by rw [chainBytes, hempty]; rfl
  obtain ⟨w, hw, hacc, hwsl, hwev, hwready, hbytes, -⟩ := ha.write (b := x.data) (by rw [hempty]; exact packed_nil)
    (by rw [← chainBytes_length, hasm]; exact (Nat.zero_add _).le)
  obtain ⟨m, hm, hmsl, hmev, hmasm, hmready⟩ := hacc.move (by rw [hbytes, hasm, List.nil_append])
  have hsl : m.slots = (Machine.abortAsm x.slot s).slots := hmsl.trans hwsl
  have hslot : slotAt (setSlot x.slot { slotAt m x.slot with rxSeq := x.seq } m) x.slot =
      { slotAt (Machine.abortAsm x.slot s) x.slot with rxSeq := x.seq } := by
    rw [slotAt_setSlot_same _ (hsl ▸ ha.lt_slots), slotAt, hsl, slotAt]
  refine ⟨transferDone (x.frame .single x.data) x.slot x.seq (BitVec.ofNat 16 x.data.length) m, ?_, ?_⟩
  · rw [handle, frameType_wireFrame]
    show handleSingle _ s = _
    unfold handleSingle
    simp only [h.route, Option.map_some, hpay, hlen, hw, hm, frameSeq_wireFrame]
  · exact
      { asmEmpty := hmasm
        ready := by
          refine hmready.trans ?_
          rw [chainBytes, hwready, haready, chainBytes]
        events := by
          rw [← mkEvent_frame x .single x.data]
          exact congrArg (· ++ _) (hmev.trans hwev)
        rxSeq := by rw [transferDone, slotAt_post, hslot]
        idle := by
          rw [transferDone, slotAt_post, hslot]
          exact (abortAsm_ends h.inv h.slot_lt).1 }

/-! ### One turn of the dispatcher (R127, R128, R146) -/

/-- From `s` to `t`, `n` frames left RXIN for `rest`, each of them counted and none dropped. -/
structure Counted (n : Nat) (rest : List Frame) (s t : State) : Prop where
  rxin : t.rxin = rest
  rxdrop : t.rxdrop = s.rxdrop
  rxframes : t.rxframes = s.rxframes + BitVec.ofNat 32 n

theorem Counted.succ {n : Nat} (h : Counted 1 fs s u) (k : Counted n rest u t) : Counted (n + 1) rest s t where
  rxin := k.rxin
  rxdrop := k.rxdrop.trans h.rxdrop
  rxframes := by
    rw [k.rxframes, h.rxframes, BitVec.add_assoc, Nat.add_comm, BitVec.ofNat_add]

/-- A transfer that is not over yet has changed neither the ready chain nor the event FIFO. -/
abbrev Pending (x : Transfer) (s t : State) : Prop :=
  chainAt t (readyChain x.slot) = chainAt s (readyChain x.slot) ∧ t.events = s.events

theorem Delivered.of_pending (h : Pending x s u) (k : Delivered x u t) : Delivered x s t :=
  { k with
    ready := by rw [k.ready, chainBytes, h.1, chainBytes]
    events := by rw [k.events, h.2] }

/-- The head of RXIN taken off. -/
theorem Accepts.unqueue (h : Accepts x s) {f : Frame} (hin : s.rxin = f :: fs) : Accepts x { s with rxin := fs } :=
  { h with inv := h.inv.withRxin fun g hg => h.inv.rxin g (hin ▸ List.mem_cons_of_mem _ hg) }

theorem Assembling.unqueue (h : Assembling x got s) {f : Frame} (hin : s.rxin = f :: fs) :
    Assembling x got { s with rxin := fs } :=
  { h with toAccepts := h.toAccepts.unqueue hin }

theorem Assembling.take (h : Assembling x got s) (f : Frame) : Assembling x got (take f s) :=
  { h with inv := h.inv.take f }

/-- A frame of the transfer that is well formed is taken as its handler leaves the state. -/
theorem Accepts.turn (h : Accepts x s) (hin : s.rxin = x.frame ty b :: fs) (hb : b.length ≤ 7)
    (hm : malformed (x.frame ty b) = false) (hh : handle (x.frame ty b) { s with rxin := fs } = some t) :
    dispatcherTurn s = Machine.take (x.frame ty b) t ∧ Counted 1 fs s (dispatcherTurn s) := by
  have hframe : notCannet (x.frame ty b) = false := by
    rw [notCannet, frameLen_wireFrame _ _ _ _ _ hb]
    have h8 : ¬8 < 1 + b.length := by omega
    simp [wireFrame, h8]
  have hdst : notForMe s (x.frame ty b) = false := by
    simp [notForMe, h.own]
  have henabled : dispatcherEnabled s = true := by
    simp [dispatcherEnabled, h.run, hin, h.fifo]
  have hturn : dispatcherTurn s = Machine.take (x.frame ty b) t := by
    rw [dispatcherTurn, if_pos henabled, dispatcherStep, hin]
    show receive _ { s with rxin := fs } = _
    have hdst' : notForMe { s with rxin := fs } (x.frame ty b) = false := hdst
    rw [receive, hframe, hdst', hm, hh]
    rfl
  refine ⟨hturn, ?_⟩
  rw [hturn, onlyTable_handle hh]
  exact ⟨rfl, rfl, rfl⟩

/-! ### A turn for each type of frame (R137 to R140) -/

theorem Accepts.turn_single (h : Accepts x s) (hin : s.rxin = x.frame .single x.data :: fs) (hb : x.data.length ≤ 7) :
    Delivered x s (dispatcherTurn s) ∧ Counted 1 fs s (dispatcherTurn s) := by
  obtain ⟨t, hh, ht⟩ := (h.unqueue hin).handle_single hb
  obtain ⟨hturn, hcount⟩ := h.turn hin hb (by simp [malformed]) hh
  exact ⟨by rw [hturn]; exact { ht with }, hcount⟩

theorem Accepts.turn_first (h : Accepts x s) (hin : s.rxin = x.firstFrame b :: fs) (hb : b.length ≤ 3)
    (hd : b.length ≤ x.data.length) :
    Assembling x b (dispatcherTurn s) ∧ Pending x s (dispatcherTurn s) ∧ Counted 1 fs s (dispatcherTurn s) := by
  have hb' := length_firstPayload (BitVec.ofNat 16 x.data.length) (crc16 x.data) b
  have h1 := h.unqueue hin
  obtain ⟨ha, hempty, haready⟩ := h1.abortAsm
  obtain ⟨hasm, hready⟩ := (ha.startAsm hempty b).append (b := b) (by simpa using hd)
  have hev := ((SlotWork.abortAsm x.slot { s with rxin := fs }).trans
    ((SlotWork.startAsm (x.firstFrame b) x.slot _).trans (.appendAsm x.slot b _))).events
  have hm : malformed (x.firstFrame b) = false := by
    have h5 : ¬1 + (4 + b.length) < 5 := by omega
    simp [malformed, frameLen_wireFrame _ _ _ _ _ (hb'.trans_le (by omega)), hb', h5]
  obtain ⟨hturn, hcount⟩ := h.turn hin (by omega) hm (h1.handle_first hb)
  exact ⟨by rw [hturn]; exact hasm.take _, by rw [hturn]; exact ⟨hready.trans haready, hev⟩, hcount⟩

theorem Assembling.turn_next (h : Assembling x got s) (hin : s.rxin = x.frame .next b :: fs) (hb : b.length ≤ 7)
    (hd : got.length + b.length ≤ x.data.length) :
    Assembling x (got ++ b) (dispatcherTurn s) ∧ Pending x s (dispatcherTurn s) ∧
      Counted 1 fs s (dispatcherTurn s) := by
  have h1 := h.unqueue hin
  obtain ⟨hasm, hready⟩ := h1.append hd
  obtain ⟨hturn, hcount⟩ := h.turn hin hb (by simp [malformed]) (h1.handle_next hb)
  exact ⟨by rw [hturn]; exact hasm.take _,
    by rw [hturn]; exact ⟨hready, (SlotWork.appendAsm x.slot b { s with rxin := fs }).events⟩, hcount⟩

theorem Assembling.turn_last (h : Assembling x got s) (hin : s.rxin = x.frame .last b :: fs) (hb : b.length ≤ 7)
    (hd : got ++ b = x.data) : Delivered x s (dispatcherTurn s) ∧ Counted 1 fs s (dispatcherTurn s) := by
  have h1 := h.unqueue hin
  obtain ⟨hasm, hready⟩ := h1.append (b := b) (by rw [← hd, List.length_append])
  have hpend : Pending x s (appendAsm x.slot b { s with rxin := fs }) :=
    ⟨hready, (SlotWork.appendAsm x.slot b { s with rxin := fs }).events⟩
  obtain ⟨hturn, hcount⟩ := h.turn hin hb (by simp [malformed]) (h1.handle_last hb)
  rw [hd] at hasm
  exact ⟨by rw [hturn]; exact .of_pending hpend { hasm.finish b with }, hcount⟩

/-! ### The whole transfer (R88) -/

/-- The frames after the `first` one: a `next` frame while more than 7 bytes remain, then `last`. -/
theorem Assembling.turns (fuel : Nat) (r : List Byte) (h : Assembling x got s) (hd : got ++ r = x.data)
    (hr : r.length ≤ fuel) (hin : s.rxin = (segmentRest fuel r).map (fun y => x.frame y.1 y.2) ++ rest) :
    Delivered x s (dispatcherTurn^[(segmentRest fuel r).length] s) ∧
      Counted (segmentRest fuel r).length rest s (dispatcherTurn^[(segmentRest fuel r).length] s) := by
  induction fuel generalizing s got r with
  | zero => exact h.turn_last hin (hr.trans (by decide)) hd
  | succ n ih =>
    unfold segmentRest at hin ⊢
    split
    · rename_i hlong
      rw [if_pos hlong] at hin
      have hlen : got.length + r.length = x.data.length := by rw [← hd, List.length_append]
      obtain ⟨hasm, hpend, hcount⟩ := h.turn_next hin (List.length_take_le ..) (by rw [List.length_take]; omega)
      obtain ⟨hdel, hcount'⟩ := ih (r.drop 7) hasm (by rw [List.append_assoc, List.take_append_drop, hd])
        (by rw [List.length_drop]; omega) hcount.rxin
      rw [List.length_cons, Function.iterate_succ_apply]
      exact ⟨.of_pending hpend hdel, hcount.succ hcount'⟩
    · rename_i hshort
      rw [if_neg hshort] at hin
      exact h.turn_last hin (Nat.not_lt.mp hshort) hd

/-- A canonical transfer: a `single` frame, or a `first` frame and the rest. -/
theorem Accepts.turns (h : Accepts x s)
    (hin : s.rxin = (segmentData x.data).map (fun y => x.frame y.1 y.2) ++ rest) :
    Delivered x s (dispatcherTurn^[(segmentData x.data).length] s) ∧
      Counted (segmentData x.data).length rest s (dispatcherTurn^[(segmentData x.data).length] s) := by
  unfold segmentData at hin ⊢
  split
  · rename_i hshort
    rw [if_pos hshort] at hin
    exact h.turn_single hin hshort
  · rename_i hlong
    rw [if_neg hlong] at hin
    obtain ⟨hasm, hpend, hcount⟩ := h.turn_first hin (by simp) (by simp)
    obtain ⟨hdel, hcount'⟩ := hasm.turns x.data.length (x.data.drop 3) (List.take_append_drop ..) (by simp) hcount.rxin
    rw [List.length_cons, Function.iterate_succ_apply]
    exact ⟨.of_pending hpend hdel, hcount.succ hcount'⟩

end Delivery

theorem segmentData_ne_nil (d : List Byte) : segmentData d ≠ [] := by
  unfold segmentData
  split <;> exact List.cons_ne_nil _ _

/-- The slot that takes a frame's data is the one it is routed to (R132): it is the only one of its kind (R34). -/
theorem routeData_of_dataSlot (h : Invariant s) {f : Frame} {i : Nat} (hd : DataSlot s f i) :
    i < s.params.nslot ∧ routeData s f = some i := by
  unfold routeData
  obtain ⟨hi, hrole, hport, hremote⟩ | ⟨⟨hi, hrole, hport⟩, hnone⟩ := hd
  · have hfind : findPeer s (roleIs .connected) (framePort f) (frameSrc f) = some i :=
      findPeer_eq h (fun r hr => by rw [of_decide_eq_true hr]; rfl) hi (decide_eq_true hrole) hport hremote
    rw [hfind]
    exact ⟨hi, rfl⟩
  · have hfind : findPeer s (roleIs .connected) (framePort f) (frameSrc f) = none := by
      cases hf : findPeer s (roleIs .connected) (framePort f) (frameSrc f) with
      | none => rfl
      | some j =>
        obtain ⟨hj, rj, pj, mj⟩ := findPeer_some hf
        exact absurd ⟨hj, of_decide_eq_true rj, pj, mj⟩ (hnone j)
    rw [hfind]
    exact ⟨hi, findPort_eq h rfl hi hrole hport⟩

/-- Settles O60: the slot of the frames is where they are routed, so the transfer is accepted, and `Accepts.turns` takes
its frames one a turn. -/
theorem transferReassembled : Obligations.TransferReassembled := by
  unfold Obligations.TransferReassembled
  intro s i src port seq d rest hinv hrun hsize hfifo hin hslot hasm hready hpool
  let x : Transfer := { slot := i, dst := s.ownaddr, src := src, port := port, seq := seq, data := d }
  obtain ⟨y, hy⟩ := List.exists_mem_of_ne_nil _ (segmentData_ne_nil d)
  obtain ⟨hi, hroute⟩ := routeData_of_dataSlot hinv (hslot (x.frame y.1 y.2) (List.mem_map_of_mem hy))
  have hacc : Accepts x s :=
    { inv := hinv, run := hrun, own := rfl, fifo := hfifo, slot_lt := hi
      route := fun ty b => by simpa [routeData] using hroute
      size := hsize, asmCap := hasm, readyCap := hready, pool := hpool }
  obtain ⟨hdel, hcount⟩ := hacc.turns hin
  intro t
  have ht : t = dispatcherTurn^[(segmentData d).length] s := by
    simp only [t, transferFrames, List.length_map]
  rw [ht, transferFrames, List.length_map]
  exact ⟨hcount.rxin, hdel.asmEmpty, hdel.ready, hdel.events, hdel.rxSeq, hdel.idle, hcount.rxdrop, hcount.rxframes⟩

end Sys2Proof.Machine

/-! PROOFS. The CRC (R95 to R102): the shift register is linear, which gives the table form, and what CRC_INIT and
CRC_UPDATE leave. -/

namespace Sys2Proof.Machine

variable {s : State}

/-! ### The shift register is linear (R96) -/

theorem crcShift_xor (x y : Half) : crcShift (x ^^^ y) = crcShift x ^^^ crcShift y := by
  unfold crcShift
  rw [BitVec.getLsbD_xor, BitVec.shiftLeft_xor_distrib]
  cases x.getLsbD 15 <;> cases y.getLsbD 15
  · rfl
  · exact BitVec.xor_assoc ..
  · show x <<< 1 ^^^ y <<< 1 ^^^ crcPoly = x <<< 1 ^^^ crcPoly ^^^ y <<< 1
    ac_rfl
  · calc x <<< 1 ^^^ y <<< 1
        = x <<< 1 ^^^ y <<< 1 ^^^ (crcPoly ^^^ crcPoly) := by rw [BitVec.xor_self, BitVec.xor_zero]
      _ = (x <<< 1 ^^^ crcPoly) ^^^ (y <<< 1 ^^^ crcPoly) := by ac_rfl

theorem crcShifts_xor (n : Nat) (x y : Half) : crcShifts n (x ^^^ y) = crcShifts n x ^^^ crcShifts n y := by
  induction n generalizing x y with
  | zero => rfl
  | succ n ih => rw [crcShifts, crcShift_xor, ih, crcShifts, crcShifts]

/-- The polynomial is not met while no set bit leaves the register. -/
theorem crcShifts_eq_shiftLeft (n : Nat) (x : Half) (h : x.toNat * 2 ^ n < 2 ^ 16) : crcShifts n x = x <<< n := by
  induction n generalizing x with
  | zero => exact (BitVec.shiftLeft_zero x).symm
  | succ n ih =>
    have hdouble : x.toNat * 2 * 2 ^ n < 2 ^ 16 := by rwa [Nat.mul_assoc, ← Nat.pow_succ']
    have hx : x.toNat * 2 < 2 ^ 16 := (Nat.le_mul_of_pos_right _ (Nat.two_pow_pos n)).trans_lt hdouble
    have hbit : x.getLsbD 15 = false := Nat.testBit_lt_two_pow (by omega)
    have hshift : (x <<< 1).toNat = x.toNat * 2 := by
      rw [BitVec.toNat_shiftLeft, Nat.shiftLeft_eq, pow_one, Nat.mod_eq_of_lt hx]
    rw [crcShifts, crcShift, hbit, if_neg Bool.false_ne_true, ih _ (by rwa [hshift]), ← BitVec.shiftLeft_add,
      Nat.add_comm]

/-! ### The table (R98, R99) -/

/-- Entry `i` of the table (R99). -/
def crcEntry (i : Nat) : Half := crcUpdate (BitVec.ofNat 16 (256 * i)) 0

theorem crcTable0_eq : crcTable0 = (List.range' 0 64).map crcEntry := by decide

theorem crcTable1_eq : crcTable1 = (List.range' 64 64).map crcEntry := by decide

theorem crcTable2_eq : crcTable2 = (List.range' 128 64).map crcEntry := by decide

theorem crcTable3_eq : crcTable3 = (List.range' 192 64).map crcEntry := by decide

theorem crcTable_eq : crcTable = (List.range 256).map crcEntry := by
  rw [crcTable, crcTable0_eq, crcTable1_eq, crcTable2_eq, crcTable3_eq, ← List.map_append, ← List.map_append,
    ← List.map_append, List.range'_append_1 (s := 0) (m := 64), List.range'_append_1 (s := 0) (m := 64 + 64),
    List.range'_append_1 (s := 0) (m := 64 + 64 + 64), List.range_eq_range']

theorem length_crcTable : crcTable.length = 256 := by rw [crcTable_eq, List.length_map, List.length_range]

theorem getD_crcTable {i : Nat} (h : i < 256) : crcTable.getD i 0 = crcEntry i := by
  rw [List.getD_eq_getElem _ _ (length_crcTable.symm ▸ h)]
  simp only [crcTable_eq, List.getElem_map, List.getElem_range]

/-! ### The table form (R98) -/

theorem toNat_and_lowByte (x : Half) : (x &&& 0xFF).toNat = x.toNat % 2 ^ 8 :=
  BitVec.toNat_and .. ▸ Nat.and_two_pow_sub_one_eq_mod _ 8

theorem getLsbD_lowByte (k : Nat) : (0xFF : Half).getLsbD k = decide (k < 8) := Nat.testBit_two_pow_sub_one 8 k

/-- Shifted up by eight, the low byte is all that stays. -/
theorem crcShifts_lowByte (c : Half) : crcShifts 8 (c &&& 0xFF) = c <<< 8 := by
  have hlow := toNat_and_lowByte c
  rw [crcShifts_eq_shiftLeft 8 _ (by omega)]
  apply BitVec.eq_of_toNat_eq
  rw [BitVec.toNat_shiftLeft, BitVec.toNat_shiftLeft, hlow, Nat.shiftLeft_eq, Nat.shiftLeft_eq]
  omega

/-- Where the table form looks (R98): the accumulator's high byte XOR `b`. -/
def crcIndex (c : Half) (b : Byte) : Half := ((c >>> 8) ^^^ b.setWidth 16) &&& 0xFF

theorem crcIndex_lt (c : Half) (b : Byte) : (crcIndex c b).toNat < 256 := by
  rw [crcIndex, toNat_and_lowByte]
  omega

theorem crcEntry_toNat (i : Half) : crcEntry i.toNat = crcShifts 8 (i <<< 8) := by
  have hstart : BitVec.ofNat 16 (256 * i.toNat) = i <<< 8 := by
    apply BitVec.eq_of_toNat_eq
    rw [BitVec.toNat_shiftLeft, BitVec.toNat_ofNat, Nat.shiftLeft_eq, Nat.mul_comm]
  rw [crcEntry, crcUpdate, hstart]
  exact congrArg _ BitVec.xor_zero

/-- The register before the eight shifts (R96): the index as its high byte, the accumulator's low byte below it. -/
theorem crcStart_eq (c : Half) (b : Byte) :
    c ^^^ (b.setWidth 16 <<< 8) = crcIndex c b <<< 8 ^^^ (c &&& 0xFF) := by
  apply BitVec.eq_of_getLsbD_eq
  intro k hk
  simp only [crcIndex, BitVec.getLsbD_xor, BitVec.getLsbD_shiftLeft, BitVec.getLsbD_and, BitVec.getLsbD_ushiftRight,
    getLsbD_lowByte]
  by_cases hlow : k < 8
  · simp [hlow]
  · have hhigh : k - 8 < 8 := by omega
    have hplace : 8 + (k - 8) = k := by omega
    simp [hlow, hk, hhigh, hplace]

theorem crcUpdateByTable_eq (c : Half) (b : Byte) : crcUpdateByTable c b = crcUpdate c b := by
  calc crcUpdateByTable c b
      = c <<< 8 ^^^ crcEntry (crcIndex c b).toNat := congrArg _ (getD_crcTable (crcIndex_lt c b))
    _ = crcShifts 8 (crcIndex c b <<< 8) ^^^ crcShifts 8 (c &&& 0xFF) := by
        rw [crcEntry_toNat, crcShifts_lowByte, BitVec.xor_comm]
    _ = crcUpdate c b := by rw [← crcShifts_xor, ← crcStart_eq, crcUpdate]

/-- Settles O24 (`crcTable` is a name of the model): the register is linear, so its low byte only moves up and its high
byte gives the table's entry; the entries are evaluated (`crcTable_eq`). -/
theorem crcTable_correct : Obligations.CrcTable := by
  unfold Obligations.CrcTable
  exact ⟨crcUpdateByTable_eq, length_crcTable, fun i hi => getD_crcTable hi⟩

/-! ### The commands (R101, R102) -/

theorem exec_crcUpdate_badRange {len : Half} (h : 256 < s.arg0.toNat + len.toNat) :
    exec (.crcUpdate len) s = .next (fail .badarg s) :=
  if_pos ((badRange_iff ..).mpr h)

/-- CRCACC when the `n` bytes of XBUF from `off` are folded into it (R102). -/
def crcOver (off n : Nat) (s : State) : Half := crcFold s.crcacc (xreadRange s off n)

theorem exec_crcUpdate {len : Half} (h : s.arg0.toNat + len.toNat ≤ 256) :
    exec (.crcUpdate len) s =
      .next { s with err := .ok, crcacc := crcOver s.arg0.toNat len.toNat s,
                     res0 := (crcOver s.arg0.toNat len.toNat s).setWidth 32 } :=
  if_neg (mt (badRange_iff ..).mp (Nat.not_lt.mpr h))

/-- Settles O25: the words are the formats' numbers; the two outcomes of CRC_UPDATE are `exec_crcUpdate_badRange` and
`exec_crcUpdate`. -/
theorem crcCommands : Obligations.CrcCommands := by
  unfold Obligations.CrcCommands
  refine ⟨by decide, fun s => rfl, fun len s => ⟨?_, exec_crcUpdate_badRange, fun h => ?_⟩⟩
  · rw [encode, toNat_formatFI]; rfl
  · refine ⟨crcOver s.arg0.toNat len.toNat s, List.foldl_map, ?_⟩
    rw [exec_crcUpdate h, BitVec.ofNat_toNat]

/-! ### Updates compose (R100) -/

theorem crcFold_append (c : Half) (a b : List Byte) : crcFold c (a ++ b) = crcFold (crcFold c a) b :=
  List.foldl_append

theorem crcOver_add (off m n : Nat) (s : State) :
    crcOver off (m + n) s = crcOver (off + m) n { s with crcacc := crcOver off m s } := by
  simp only [crcOver, xreadRange_append, crcFold_append]
  rfl

/-- Settles O26: the CRC is a fold, so it splits at any place of the data (`crcFold_append`), and at any byte of a range
of XBUF (`crcOver_add`). -/
theorem crcComposes : Obligations.CrcComposes := by
  unfold Obligations.CrcComposes
  refine ⟨fun a b => (crcFold_append crcSeed a b).symm, fun m n s t u h ht hu => ?_⟩
  have hlen : ∀ k ≤ 256, (BitVec.ofNat 16 k).toNat = k := fun k hk => Nat.mod_eq_of_lt (by omega)
  have hoff : (BitVec.ofNat 32 (s.arg0.toNat + m)).toNat = s.arg0.toNat + m :=
    Nat.mod_eq_of_lt (by omega)
  have hm := hlen m (by omega)
  have hn := hlen n (by omega)
  have hmn := hlen (m + n) (by omega)
  rw [exec_crcUpdate (by omega), hm] at ht
  cases ht
  rw [exec_crcUpdate (by rw [hoff, hn]; exact h), hoff, hn] at hu
  cases hu
  rw [exec_crcUpdate (by omega), hmn, crcOver_add]
  rfl

end Sys2Proof.Machine

/-! PROOFS. Buffer chains (R103 to R120): chain_write with every chunk given, then the eight BUF commands, each with its
checks in order, and the bytes that go through an empty chain. -/

namespace Sys2Proof.Machine

variable {s t : State}

/-! ### Words with chain fields (R64) -/

theorem toNat_formatFB_chain (m : Mnemonic) (ch : BitVec 4) (imm : Half) :
    (formatFB m ch 0 imm).toNat = (opcode m).toNat * 2 ^ 24 + ch.toNat * 2 ^ 20 + imm.toNat := by
  rw [toNat_formatFB, show (0 : BitVec 4).toNat = 0 from rfl, Nat.zero_mul, Nat.add_zero]

theorem toNat_formatFB_chainOnly (m : Mnemonic) (ch : BitVec 4) :
    (formatFB m ch 0 0).toNat = (opcode m).toNat * 2 ^ 24 + ch.toNat * 2 ^ 20 := by
  rw [toNat_formatFB_chain, show (0 : Half).toNat = 0 from rfl, Nat.add_zero]

theorem toNat_formatFB_chains (m : Mnemonic) (ch ch2 : BitVec 4) :
    (formatFB m ch ch2 0).toNat = (opcode m).toNat * 2 ^ 24 + ch.toNat * 2 ^ 20 + ch2.toNat * 2 ^ 16 := by
  rw [toNat_formatFB, show (0 : Half).toNat = 0 from rfl, Nat.add_zero]

/-! ### chain_write (R104) -/

/-- The free bytes of the last chunk, as the obligation writes them. -/
theorem room_eq_space (ks : List Chunk) :
    (if ks = [] then 0 else 32 - ((ks.getLast?.map (fun k => k.data.length)).getD 0)) = room ks := by
  obtain rfl | ⟨as, k, rfl⟩ := List.eq_nil_or_concat ks
  · rfl
  · rw [List.concat_eq_append, if_neg (by simp), List.getLast?_concat, room_append_singleton]
    rfl

theorem writeChunks_nil (ks : List Chunk) : writeChunks ks [] = ks := by
  obtain rfl | ⟨as, k, rfl⟩ := List.eq_nil_or_concat ks
  · rfl
  · rw [List.concat_eq_append, writeChunks_append_singleton]
    simp [newChunks_nil]

theorem writeChunks_getElem?_init {ks : List Chunk} (b : List Byte) {j : Nat} (hj : j + 1 < ks.length) :
    (writeChunks ks b)[j]? = ks[j]? := by
  obtain rfl | ⟨as, k, rfl⟩ := List.eq_nil_or_concat ks
  · simp at hj
  · rw [List.concat_eq_append] at hj ⊢
    have hlt : j < as.length := by simpa using hj
    rw [writeChunks_append_singleton, List.getElem?_append_left hlt, List.getElem?_append_left hlt]

theorem writeChunks_getElem?_last {ks : List Chunk} (b : List Byte) {k : Chunk} (hk : ks.getLast? = some k) :
    (writeChunks ks b)[ks.length - 1]? =
      some { data := k.data ++ b.take (min (room ks) b.length), seek := k.seek } := by
  obtain ⟨as, rfl⟩ := List.getLast?_eq_some_iff.mp hk
  rw [writeChunks_append_singleton, room_append_singleton, List.length_append]
  simp

section ChainWrite

variable {c : Nat} {b : List Byte} (hi : Invariant s) (hc : c < nchain s)
include hi hc

theorem chainWrite_nomem_iff :
    chainWrite c b s = .nomem ↔
      totalSize s c + b.length ≤ (chainAt s c).maxcap.toNat ∧ freeChunks s < need (chainAt s c).chunks b.length := by
  refine ⟨fun h => ?_, fun ⟨hcap, hn⟩ => chainWrite_nomem (by omega) hn⟩
  have hcap : ¬(chainAt s c).maxcap.toNat < totalSize s c + b.length :=
    fun hf => nomatch h.symm.trans (chainWrite_full hf)
  refine ⟨Nat.not_lt.mp hcap, Nat.lt_of_not_le fun hn => ?_⟩
  obtain ⟨t, hok, -⟩ := chainWrite_accepted hi hc hcap hn
  exact nomatch h.symm.trans hok

/-- All that an accepted write does (R104), an empty one included. -/
theorem chainWrite_effect (h : chainWrite c b s = .ok t) :
    t = { s with chains := t.chains } ∧ (∀ d, d ≠ c → chainAt t d = chainAt s d) ∧
      (chainAt t c).maxcap = (chainAt s c).maxcap ∧ chainBytes t c = chainBytes s c ++ b ∧
      freeChunks t + need (chainAt s c).chunks b.length = freeChunks s ∧
      (chainAt t c).chunks = writeChunks (chainAt s c).chunks b := by
  obtain ⟨hcap, -⟩ := chainWrite_ok h
  have hn : need (chainAt s c).chunks b.length ≤ freeChunks s :=
    Nat.le_of_not_lt fun hlt => nomatch h.symm.trans (chainWrite_nomem (Nat.not_lt.mpr hcap) hlt)
  obtain ⟨t', hok, hframe, hother, hmax, hbytes, -, -, hfree, hchunks⟩ :=
    chainWrite_accepted hi hc (Nat.not_lt.mpr hcap) hn
  obtain rfl : t' = t := ChainResult.ok.inj (hok.symm.trans h)
  refine ⟨hframe, hother, hmax, hbytes, hfree, hchunks.trans ?_⟩
  split
  · next hb => rw [hb, writeChunks_nil]
  · rfl

end ChainWrite

/-- Settles O27 (`chainWrite` is a name of the model): `chainWrite_full_iff` and `chainWrite_nomem_iff` give the refusals;
an accepted write leaves `writeChunks`, whose chunks are read before, at and after the former last one. -/
theorem chainWrite_correct : Obligations.ChainWrite := by
  unfold Obligations.ChainWrite
  intro s c b hi hc ks space chunks
  have hspace : space = room ks := room_eq_space ks
  have hneed : chunks = need ks b.length := by
    show (b.length - space + 31) / 32 = _
    rw [hspace]
    rfl
  rw [hneed, hspace]
  refine ⟨chainWrite_full_iff, chainWrite_nomem_iff hi hc, fun t ht => ?_⟩
  obtain ⟨hframe, hother, hmax, hbytes, hfree, hchunks⟩ := chainWrite_effect hi hc ht
  rw [hchunks]
  exact ⟨hframe, hother, hmax, hbytes, length_writeChunks .., hfree, fun j => writeChunks_getElem?_init b,
    fun k => writeChunks_getElem?_last b, writeChunks_getElem?_new ks b⟩

/-! ### BUF_INIT and BUF_CLEAR (R113, R117) -/

/-- Settles O28: the two checks of R112 in order, then `setChain` in both commands. -/
theorem bufInitAndClear : Obligations.BufInitAndClear := by
  unfold Obligations.BufInitAndClear
  intro ch m s c isLocked
  have hbad (h : c < 2 * s.params.nslot) : ¬badChain s c = true := mt (badChain_iff s c).mp (Nat.not_le.mpr h)
  refine ⟨?_, ?_, fun h => ?badarg, fun h hl => ?busy, fun h hl => ?accepted⟩
  · exact toNat_formatFB_chain ..
  · exact toNat_formatFB_chainOnly ..
  case badarg =>
    have hb := (badChain_iff s c).mpr h
    exact ⟨if_pos hb, if_pos hb⟩
  case busy =>
    have hl := (locked_iff s c).mpr hl
    exact ⟨(if_neg (hbad h)).trans (if_pos hl), (if_neg (hbad h)).trans (if_pos hl)⟩
  case accepted =>
    have hl := mt (locked_iff s c).mp hl
    exact ⟨(if_neg (hbad h)).trans (if_neg hl), (if_neg (hbad h)).trans (if_neg hl)⟩

/-! ### BUF_WRITE and BUF_READ (R114, R115) -/

theorem badOperands_iff (s : State) (c n : Nat) :
    (badChain s c || badRange s.arg0.toNat n) = true ↔ 2 * s.params.nslot ≤ c ∨ 256 < s.arg0.toNat + n := by
  rw [Bool.or_eq_true, badChain_iff, badRange_iff]

section WriteRead

variable {ch : BitVec 4} {len : Half} (hc : ch.toNat < 2 * s.params.nslot) (hr : s.arg0.toNat + len.toNat ≤ 256)
include hc hr

theorem not_badOperands : ¬(badChain s ch.toNat || badRange s.arg0.toNat len.toNat) = true := by
  rw [badOperands_iff]
  omega

variable (hl : ¬locked s ch.toNat = true)
include hl

theorem execBufWrite_full (h : chainWrite ch.toNat (xreadRange s s.arg0.toNat len.toNat) s = .full) :
    execBufWrite ch len s = .next (fail .full s) := by
  simp only [execBufWrite, if_neg (not_badOperands hc hr), if_neg hl, h]

theorem execBufWrite_nomem (h : chainWrite ch.toNat (xreadRange s s.arg0.toNat len.toNat) s = .nomem) :
    execBufWrite ch len s = .next (fail .nomem s) := by
  simp only [execBufWrite, if_neg (not_badOperands hc hr), if_neg hl, h]

theorem execBufWrite_ok (h : chainWrite ch.toNat (xreadRange s s.arg0.toNat len.toNat) s = .ok t) :
    execBufWrite ch len s = .next (done (setRes0Nat (totalSize t ch.toNat) t)) := by
  simp only [execBufWrite, if_neg (not_badOperands hc hr), if_neg hl, h]

/-- XBUF is a range write of the bytes read; nothing else but the chain and the results changes (R115). -/
theorem execBufRead_accepted :
    ∃ t, execBufRead ch len s = .next t ∧
      t = { chainRead ch.toNat len.toNat s with
            err := .ok, res0 := BitVec.ofNat 32 (chainReadBytes ch.toNat len.toNat s).length,
            res1 := BitVec.ofNat 32 (totalSize (chainRead ch.toNat len.toNat s) ch.toNat), xbuf := t.xbuf } ∧
      ∀ b, xread t b =
        xread (xwriteRange s.arg0.toNat (chainReadBytes ch.toNat len.toNat s) (chainRead ch.toNat len.toNat s)) b :=
  ⟨_, (if_neg (not_badOperands hc hr)).trans (if_neg hl), by rw [xwriteRange_eq]; rfl, fun _ => rfl⟩

end WriteRead

/-- Settles O29: the checks in order, then the three answers of chain_write to the XBUF range. -/
theorem bufWrite : Obligations.BufWrite := by
  unfold Obligations.BufWrite
  intro ch len s hi c n off isLocked full needed
  have hlen : (xreadRange s off n).length = n := xreadRange_length ..
  refine ⟨?_, fun h => if_pos ((badOperands_iff ..).mpr h), fun hc hr hl => ?busy, fun hc hr hl hf => ?full,
    fun hc hr hl hf hn => ?nomem, fun hc hr hl hf hn => ?accepted⟩
  · exact toNat_formatFB_chain ..
  case busy => exact (if_neg (not_badOperands hc hr)).trans (if_pos ((locked_iff ..).mpr hl))
  all_goals replace hl := mt (locked_iff s c).mp hl
  case full => exact execBufWrite_full hc hr hl (chainWrite_full (by rwa [hlen]))
  case nomem => exact execBufWrite_nomem hc hr hl (chainWrite_nomem (by rwa [hlen]) (by rwa [hlen]))
  case accepted =>
    obtain ⟨t, hok, hframe, hother, hmax, hbytes, htotal, -, hfree, -⟩ :=
      chainWrite_accepted hi hc (b := xreadRange s off n) (by rwa [hlen]) (by rwa [hlen])
    have hexec := execBufWrite_ok hc hr hl hok
    rw [htotal] at hexec
    rw [hlen] at hexec hfree
    generalize t.chains = cs at hframe
    subst hframe
    exact ⟨_, hexec, rfl, hother, hmax, hbytes, hok, hfree⟩

/-- Settles O30: the checks in order; `chainRead_spec` and `chainRead_chunks` give the chain, and XBUF is a range write of
the bytes read. -/
theorem bufRead : Obligations.BufRead := by
  unfold Obligations.BufRead
  intro ch len s hi c n off isLocked got ks
  refine ⟨?_, fun h => if_pos ((badOperands_iff ..).mpr h), fun hc hr hl => ?busy, fun hc hr hl => ?accepted⟩
  · exact toNat_formatFB_chain ..
  case busy => exact (if_neg (not_badOperands hc hr)).trans (if_pos ((locked_iff ..).mpr hl))
  case accepted =>
    obtain ⟨t, hexec, hframe, hxread⟩ := execBufRead_accepted hc hr (mt (locked_iff s c).mp hl)
    obtain ⟨hread, hbytes, htotal, hother, hmax⟩ := chainRead_spec hi hc n
    obtain ⟨p, r, hp, hsum, hnext, hchunks, hfree⟩ := chainRead_chunks hi hc n
    have hlen : (chainReadBytes c n s).length = got := by rw [hread, List.length_take, chainBytes_length]
    have hgot : got ≤ n := Nat.min_le_left ..
    rw [htotal, hlen] at hframe
    generalize t.xbuf = m at hframe
    subst hframe
    refine ⟨_, hexec, rfl, hother, hmax, hbytes.trans ?drop, fun k hk => ?read, fun b hb => ?frame, p, r, hp, hsum, hnext,
      hchunks, hfree⟩
    case drop =>
      rw [List.drop_eq_drop_iff, chainBytes_length]
      omega
    case read =>
      rw [hxread, xread_xwriteRange_in off _ (by rwa [hlen]) (by rw [hlen, xbufSize]; omega),
        ← List.getElem?_eq_getElem, hread, List.getElem?_take_of_lt (by omega)]
    case frame =>
      rw [hxread, xread_xwriteRange_out off _ (by rwa [hlen])]
      rfl

/-! ### BUF_MOVE (R116) -/

theorem badMove_iff (s : State) (d x : Nat) :
    (badChain s d || badChain s x || decide (d = x)) = true ↔
      2 * s.params.nslot ≤ d ∨ 2 * s.params.nslot ≤ x ∨ d = x := by
  rw [Bool.or_eq_true, Bool.or_eq_true, badChain_iff, badChain_iff, decide_eq_true_eq, or_assoc]

section Move

variable {dst src : BitVec 4}
  (hb : ¬(2 * s.params.nslot ≤ dst.toNat ∨ 2 * s.params.nslot ≤ src.toNat ∨ dst.toNat = src.toNat))
  (hl : ¬(locked s dst.toNat || locked s src.toNat) = true)
include hb hl

theorem execBufMove_full (h : chainMove dst.toNat src.toNat s = .full) :
    execBufMove dst src s = .next (fail .full s) := by
  simp only [execBufMove, if_neg (mt (badMove_iff ..).mp hb), if_neg hl, h]

theorem execBufMove_ok (h : chainMove dst.toNat src.toNat s = .ok t) :
    execBufMove dst src s = .next (done (setRes0Nat (totalSize t dst.toNat) t)) := by
  simp only [execBufMove, if_neg (mt (badMove_iff ..).mp hb), if_neg hl, h]

end Move

/-- Settles O31: the checks in order, then the two answers of chain_move. -/
theorem bufMove : Obligations.BufMove := by
  unfold Obligations.BufMove
  intro dst src s hi d x bad isLocked full
  have hlocked (c : Nat) : locked s c = true ↔ isLocked c := locked_iff s c
  refine ⟨?_, fun hb => if_pos ((badMove_iff ..).mpr hb), fun hb hl => ?busy, fun hb hd hx hf => ?full,
    fun hb hd hx hf => ?accepted⟩
  · exact toNat_formatFB_chains ..
  case busy =>
    refine (if_neg (mt (badMove_iff ..).mp hb)).trans (if_pos ?_)
    rwa [Bool.or_eq_true, hlocked, hlocked]
  all_goals
    have hl : ¬(locked s d || locked s x) = true := by
      rw [Bool.or_eq_true, hlocked, hlocked]
      exact not_or.mpr ⟨hd, hx⟩
  case full =>
    obtain ⟨hne, hcap⟩ := hf
    refine execBufMove_full hb hl (chainMove_full (fun h0 => hne ?_) hcap)
    rw [totalSize, h0, chunksTotal_nil]
  case accepted =>
    obtain ⟨hdn, hxn, hne⟩ : d < nchain s ∧ x < nchain s ∧ d ≠ x := by
      simpa [bad, nchain] using hb
    obtain ⟨t, hok, hframe, hother, hdmax, hxmax, hdbytes, hxbytes, hfree, hsame, htotal, hdchunks, hxchunks⟩ :=
      chainMove_accepted hi hdn hxn hne hf
    have hexec := execBufMove_ok hb hl hok
    rw [htotal] at hexec
    generalize t.chains = cs at hframe
    subst hframe
    exact ⟨_, hexec, rfl, hother, hdmax, hxmax, hdbytes, hxbytes, hfree, hdchunks, hxchunks, hsame⟩

/-! ### The queries (R118 to R120) -/

theorem bit32_decide (p : Prop) [Decidable p] : bit32 (decide p) = if p then 1 else 0 := by
  by_cases h : p
  · rw [decide_eq_true h, if_pos h]
    rfl
  · rw [decide_eq_false h, if_neg h]
    rfl

/-- Settles O32: a chain never passes its MAXCAP (R37), so full is total = MAXCAP and AVAIL plus SIZE is MAXCAP. -/
theorem bufQueries : Obligations.BufQueries := by
  unfold Obligations.BufQueries
  intro ch s hi c cap total
  refine ⟨?_, ?_, ?_, fun h => ?badarg, fun h => ?accepted⟩
  · exact toNat_formatFB_chainOnly ..
  · exact toNat_formatFB_chainOnly ..
  · exact toNat_formatFB_chainOnly ..
  case badarg =>
    have hb := (badChain_iff s c).mpr h
    exact ⟨if_pos hb, if_pos hb, if_pos hb⟩
  case accepted =>
    have hb := mt (badChain_iff s c).mp (Nat.not_le.mpr h)
    have hle : total ≤ cap := (hi.chainOk h).2
    have hcap : cap < 2 ^ 16 := BitVec.isLt _
    have hfull : isFull s c = decide (total = cap) := decide_eq_decide.mpr (by omega)
    refine ⟨BitVec.ofNat 32 (available s c), BitVec.ofNat 32 total, (if_neg hb).trans ?_, if_neg hb, if_neg hb, ?_, ?_⟩
    · rw [hfull, bit32_decide]
      rfl
    · have havail : available s c = cap - total := rfl
      rw [havail, BitVec.toNat_ofNat, BitVec.toNat_ofNat]
      omega
    · rw [chainBytes_length, BitVec.toNat_ofNat]
      omega

/-! ### Through an empty chain (R103) -/

/-- A read of all that a chain holds leaves it without a chunk (R103), and all its chunks in the pool. -/
theorem exec_bufRead_all {ch : BitVec 4} {len : Half} (hi : Invariant s) (hc : ch.toNat < 2 * s.params.nslot)
    (hr : s.arg0.toNat + len.toNat ≤ 256) (hl : ¬locked s ch.toNat = true)
    (hlen : (chainBytes s ch.toNat).length = len.toNat) (h : exec (.bufRead ch len) s = .next t) :
    t.err = .ok ∧ t.res0.toNat = len.toNat ∧ t.res1 = 0 ∧ (chainAt t ch.toNat).chunks = [] ∧
      freeChunks t = freeChunks s + (chainAt s ch.toNat).chunks.length ∧
      ∀ k < len.toNat, (chainBytes s ch.toNat)[k]? = some (xread t (s.arg0.toNat + k)) := by
  obtain ⟨-, -, -, haccepted⟩ := bufRead ch len s hi
  obtain ⟨t', hexec, hframe, -, -, hbytes, hxread, -, p, r, hp, -, -, hchunks, hfree⟩ :=
    haccepted hc hr (mt (locked_iff ..).mpr hl)
  obtain rfl : t' = t := Host.Outcome.next.inj (hexec.symm.trans h)
  rw [← chainBytes_length, hlen, Nat.min_self] at hframe hbytes hxread
  have hnone : (chainAt t' ch.toNat).chunks = [] := by
    obtain ⟨hinv, hparams⟩ := execBufRead_keeps hi h
    have hcn : ch.toNat < nchain t' := by rwa [nchain, hparams]
    refine (chunksTotal_eq_zero (hinv.chainOk hcn).1).mp ((chainBytes_length ..).symm.trans ?_)
    rw [hbytes, List.length_drop, hlen, Nat.sub_self]
  have hall : p = (chainAt s ch.toNat).chunks.length := by
    have hleft := congrArg List.length hchunks
    rw [hnone, List.length_modifyHead, List.length_drop, List.length_nil] at hleft
    omega
  refine ⟨by rw [hframe], ?_, by rw [hframe, Nat.sub_self]; rfl, hnone, hall ▸ hfree, hxread⟩
  rw [hframe, BitVec.toNat_ofNat]
  omega

/-- Settles O33: the write leaves the range as the chain's bytes (`chainWrite_effect`); the read takes all of them, so it
gives the pool back the chunks the write took (`exec_bufRead_all`). -/
theorem writeThenRead : Obligations.WriteThenRead := by
  unfold Obligations.WriteThenRead
  intro ch len dest s t u hi hempty hdest ht hok hu
  obtain hfail | ⟨hc, -, hl, v, hw, rfl⟩ := execBufWrite_cases ht
  · obtain rfl | rfl | rfl | rfl := hfail <;> cases hok
  have hcn := badChain_false hc
  obtain ⟨hframe, -, -, happended, hfree, hchunks⟩ := chainWrite_effect hi hcn hw
  have hinv : Invariant { done (setRes0Nat (totalSize v ch.toNat) v) with arg0 := dest } :=
    (hi.chainWrite hcn hw).congr rfl rfl rfl rfl rfl rfl rfl rfl rfl rfl rfl
  have hbytes : chainBytes v ch.toNat = xreadRange s s.arg0.toNat len.toNat := by
    rw [happended, chainBytes, hempty, chunksBytes_nil, List.nil_append]
  have hlen : (chainBytes v ch.toNat).length = len.toNat := by rw [hbytes, xreadRange_length]
  have hcount : (chainAt v ch.toNat).chunks.length = need (chainAt s ch.toNat).chunks len.toNat := by
    rw [hchunks, length_writeChunks, hempty, List.length_nil, Nat.zero_add, xreadRange_length]
  rw [xreadRange_length, ← hcount] at hfree
  generalize v.chains = cs at hframe
  subst hframe
  obtain ⟨herr, hres0, hres1, hnone, hpool, hxread⟩ :=
    exec_bufRead_all hinv hcn hdest (Bool.eq_false_iff.mp hl) hlen hu
  refine ⟨herr, hres0, hres1, hnone, hpool.trans hfree, fun k hk => ?_⟩
  have hwritten : (xreadRange s s.arg0.toNat len.toNat)[k]? = some (xread s (s.arg0.toNat + k)) := by
    simp [xreadRange, hk]
  exact Option.some.inj ((hxread k hk).symm.trans ((congrArg (·[k]?) hbytes).trans hwritten))

end Sys2Proof.Machine

/-! PROOFS. The slot commands and EV_POP (R121 to R126, R151): SLOT_SET's checks as one condition on its operands, what the
three slot commands leave, and the words of SLOT_GET and of an event as numbers. -/

namespace Sys2Proof.Machine

variable {s : State}

/-! ### What SLOT_SET checks (R33, R123, R124) -/

theorem settableRole_eq_none_iff : ∀ c : BitVec 3, settableRole c = none ↔ c.toNat = 0 ∨ 5 < c.toNat := by decide

theorem roleCode_of_settableRole : ∀ c : BitVec 3, ∀ r ∈ settableRole c, roleCode r = c := by decide

theorem isListening_iff_code (r : Role) :
    isListening r = true ↔ (roleCode r).toNat = 1 ∨ (roleCode r).toNat = 2 := by
  cases r <;> decide

theorem isPeered_iff_code (r : Role) : isPeered r = true ↔ (roleCode r).toNat = 3 ∨ (roleCode r).toNat = 4 := by
  cases r <;> decide

/-- An address of at most 14 bits is used whole (R124). -/
theorem toNat_addrOf_of_le {w : Word} (h : w.toNat ≤ 0x3FFF) : (addrOf w).toNat = w.toNat := by
  rw [toNat_addrOf]
  omega

theorem badRemote_iff (r : Role) (a : BusAddr) :
    badRemote r a = true ↔ isPeered r = true ∧ (a.toNat = 0 ∨ a.toNat = 0x3FFF) := by
  rw [badRemote, Bool.and_eq_true, Bool.or_eq_true, decide_eq_true_eq, decide_eq_true_eq, ← BitVec.toNat_inj,
    ← BitVec.toNat_inj]
  rfl

theorem conflict_iff (s : State) (i : Nat) (r : Role) (port : Port) (remote : BusAddr) :
    conflict s i r port remote = true ↔
      ∃ j < s.params.nslot, j ≠ i ∧ (slotAt s j).port = port ∧
        ((isListening r = true ∧ isListening (slotAt s j).role = true) ∨
          (isPeered r = true ∧ isPeered (slotAt s j).role = true ∧ (slotAt s j).remote = remote)) := by
  simp only [conflict, excludes, List.any_eq_true, List.mem_range, Bool.and_eq_true, Bool.or_eq_true, decide_eq_true_eq]
  refine exists_congr fun j => and_congr_right fun _ => and_congr_right fun _ => ?_
  tauto

/-- The operands of a SLOT_SET pass its checks, and `r` is the role they name (R124). -/
structure SlotSetChecked (s : State) (i : Nat) (role : BitVec 3) (r : Role) : Prop where
  slot : i < s.params.nslot
  role : settableRole role = some r
  addr : s.arg0.toNat ≤ 0x3FFF
  remote : badRemote r (addrOf s.arg0) = false

section SlotSet

variable {slot : BitVec 4} {role : BitVec 3} {r : Role} {proto : Proto} {port : Port}

/-- The causes of BADARG, in numbers (R124). -/
theorem slotSetChecked_iff :
    (∃ r, SlotSetChecked s slot.toNat role r) ↔
      ¬(s.params.nslot ≤ slot.toNat ∨ role.toNat = 0 ∨ 5 < role.toNat ∨ 0x3FFF < s.arg0.toNat ∨
        ((role.toNat = 3 ∨ role.toNat = 4) ∧ (s.arg0.toNat = 0 ∨ s.arg0.toNat = 0x3FFF))) := by
  have hnone := settableRole_eq_none_iff role
  cases hr : settableRole role with
  | none =>
    have hrange := hnone.mp hr
    refine iff_of_false (fun ⟨r, h⟩ => nomatch hr.symm.trans h.role) ?_
    tauto
  | some r =>
    have hrange := mt hnone.mpr (hr ▸ Option.some_ne_none r)
    have hcode := roleCode_of_settableRole role r hr
    have hremote (ha : s.arg0.toNat ≤ 0x3FFF) := badRemote_iff r (addrOf s.arg0)
    simp only [isPeered_iff_code, hcode] at hremote
    constructor
    · rintro ⟨r', hs, hr', ha, hb⟩ hbad
      cases hr.symm.trans hr'
      have hok := mt (hremote ha).mpr (hb ▸ Bool.false_ne_true)
      rw [toNat_addrOf_of_le ha] at hok
      omega
    · intro hok
      have ha : s.arg0.toNat ≤ 0x3FFF := by omega
      refine ⟨r, by omega, hr, ha, Bool.eq_false_iff.mpr fun hb => ?_⟩
      have hbad := (hremote ha).mp hb
      rw [toNat_addrOf_of_le ha] at hbad
      omega

theorem execSlotSet_unchecked (h : ¬∃ r, SlotSetChecked s slot.toNat role r) :
    execSlotSet slot role proto port s = .next (fail .badarg s) := by
  unfold execSlotSet
  dsimp only
  split
  · rfl
  · rename_i hslot
    split
    · rfl
    · rename_i r hr
      split
      · rfl
      · rename_i haddr
        split
        · rfl
        · rename_i hremote
          rw [badSlot_iff] at hslot
          rw [above14_iff] at haddr
          exact absurd ⟨r, Nat.not_le.mp hslot, hr, Nat.not_lt.mp haddr, Bool.eq_false_iff.mpr hremote⟩ h

theorem SlotSetChecked.exec (h : SlotSetChecked s slot.toNat role r) :
    execSlotSet slot role proto port s =
      if conflict s slot.toNat r port (addrOf s.arg0) then .next (fail .portbusy s)
      else .next (done (register slot.toNat r proto port (addrOf s.arg0) (abortAsm slot.toNat s))) := by
  have hslot : ¬badSlot s slot.toNat = true := mt (badSlot_iff ..).mp (Nat.not_le.mpr h.slot)
  have haddr : ¬above14 s.arg0 = true := mt (above14_iff _).mp (Nat.not_lt.mpr h.addr)
  have hremote : ¬badRemote r (addrOf s.arg0) = true := Bool.eq_false_iff.mp h.remote
  simp only [execSlotSet, if_neg hslot, h.role, if_neg haddr, if_neg hremote]

/-- R123 in numbers: the codes of the roles, and ARG0 as the remote address. -/
theorem SlotSetChecked.conflict_iff (h : SlotSetChecked s slot.toNat role r) :
    conflict s slot.toNat r port (addrOf s.arg0) = true ↔
      ∃ j < s.params.nslot, j ≠ slot.toNat ∧ (slotAt s j).port = port ∧
        (((role.toNat = 1 ∨ role.toNat = 2) ∧
            ((roleCode (slotAt s j).role).toNat = 1 ∨ (roleCode (slotAt s j).role).toNat = 2)) ∨
          ((role.toNat = 3 ∨ role.toNat = 4) ∧
            ((roleCode (slotAt s j).role).toNat = 3 ∨ (roleCode (slotAt s j).role).toNat = 4) ∧
            (slotAt s j).remote.toNat = s.arg0.toNat)) := by
  simp only [Machine.conflict_iff, isListening_iff_code, isPeered_iff_code, roleCode_of_settableRole role r h.role,
    ← toNat_addrOf_of_le h.addr, BitVec.toNat_inj]

end SlotSet

/-! ### What SLOT_SET and SLOT_FREE leave (R122, R124, R125) -/

/-- One write of the slot after abort_asm. -/
theorem setSlot_abortAsm (i : Nat) (x : Slot) (s : State) :
    setSlot i x (abortAsm i s) =
      { s with
        slots := s.slots.set i x
        chains := s.chains.set (2 * i) { chainAt s (2 * i) with chunks := [] } } := by
  rw [abortAsm_eq, setSlot, List.set_set]

theorem register_abortAsm (h : Invariant s) {i : Nat} (hi : i < s.params.nslot) (r : Role) (proto : Proto)
    (port : Port) (remote : BusAddr) :
    register i r proto port remote (abortAsm i s) =
      { s with
        slots := s.slots.set i
          { slotAt s i with
            role := r, proto := proto, port := port, remote := remote, rxSeq := 0, asmActive := false, asmErr := false }
        chains := s.chains.set (2 * i) { chainAt s (2 * i) with chunks := [] } } := by
  rw [register, slotAt_abortAsm_same h hi, setSlot_abortAsm]

/-- SLOT_FREE's registration does not look at the chains. -/
theorem register_chainClear (i c : Nat) (r : Role) (proto : Proto) (port : Port) (remote : BusAddr) (s : State) :
    register i r proto port remote (chainClear c s) = chainClear c (register i r proto port remote s) := rfl

/-- The word of SLOT_FREE or SLOT_GET: SLOT is its only field (R65). -/
theorem toNat_formatFS_slotOnly (m : Mnemonic) (slot : BitVec 4) :
    (formatFS m slot 0 .dgram 0).toNat = (opcode m).toNat * 2 ^ 24 + slot.toNat * 2 ^ 20 := by
  have hzero : (0 : BitVec 3).toNat = 0 := rfl
  have hproto : (protoCode .dgram).toNat = 0 := rfl
  rw [toNat_formatFS, hzero, hproto]
  omega

/-- Settles O34: the checks are `SlotSetChecked`, which is the negation of the causes of BADARG (`slotSetChecked_iff`);
then R123's conflict decides, and `register_abortAsm` is the effect. -/
theorem slotSet : Obligations.SlotSet := by
  unfold Obligations.SlotSet
  intro slot role proto port s hi i inst bad listens peers clash
  refine ⟨?_, fun hbad => ?badarg, fun hok hclash => ?portbusy, fun hok hclash => ?accepted⟩
  · cases proto <;> exact toNat_formatFS ..
  case badarg => exact execSlotSet_unchecked (mt slotSetChecked_iff.mp (not_not.mpr hbad))
  all_goals obtain ⟨r, h⟩ := slotSetChecked_iff.mpr hok
  case portbusy => exact h.exec.trans (if_pos (h.conflict_iff.mpr hclash))
  case accepted =>
    refine ⟨r, addrOf s.arg0, by rw [roleCode_of_settableRole role r h.role], toNat_addrOf_of_le h.addr, ?_⟩
    refine h.exec.trans ((if_neg (mt h.conflict_iff.mp hclash)).trans ?_)
    rw [register_abortAsm hi h.slot]
    rfl

/-- Settles O35: the index check, then `register_abortAsm` with the ready chain emptied too. -/
theorem slotFree : Obligations.SlotFree := by
  unfold Obligations.SlotFree
  intro slot s hi i
  refine ⟨?_, fun h => if_pos ((badSlot_iff ..).mpr h), fun h => ?_⟩
  · exact toNat_formatFS_slotOnly ..
  · refine (if_neg (mt (badSlot_iff ..).mp (Nat.not_le.mpr h))).trans ?_
    have hready (x : Chain) : chainAt (setChain (2 * i) x s) (2 * i + 1) = chainAt s (2 * i + 1) :=
      chainAt_setChain_ne x (by omega)
    rw [register_chainClear, register_abortAsm hi h, chainClear, ← hready]
    rfl

/-! ### Words packed from fields (R22, R126, R151) -/

theorem toNat_protoCode (p : Proto) : (protoCode p).toNat = if p = .stream then 1 else 0 := by cases p <;> rfl

/-- RES0 of SLOT_GET as a number (R126). -/
theorem slotWord0_toNat (x : Slot) :
    (slotWord0 x).toNat =
      (roleCode x.role).toNat + 2 ^ 3 * (protoCode x.proto).toNat + 2 ^ 4 * x.port.toNat + 2 ^ 7 * x.asmActive.toNat +
        2 ^ 8 * x.asmErr.toNat + 2 ^ 9 * x.asmSeq.toNat + 2 ^ 11 * x.rxSeq.toNat + 2 ^ 14 * x.remote.toNat := by
  have hactive := x.asmActive.toNat_le
  have herr := x.asmErr.toNat_le
  have w0 := toNat_setWidth_le (w := 32) (roleCode x.role) (by decide)
  have w3 := toNat_or_field_of_eq (k := 3) w0 (protoCode x.proto) (by omega) (by decide)
  have w4 := toNat_or_field_of_eq (k := 4) w3 x.port (by omega) (by decide)
  have w7 := toNat_or_bit32_of_eq (k := 7) w4 x.asmActive (by omega) (by decide)
  have w8 := toNat_or_bit32_of_eq (k := 8) w7 x.asmErr (by omega) (by decide)
  have w9 := toNat_or_field_of_eq (k := 9) w8 x.asmSeq (by omega) (by decide)
  have w11 := toNat_or_field_of_eq (k := 11) w9 x.rxSeq (by omega) (by decide)
  exact toNat_or_field_of_eq (k := 14) w11 x.remote (by omega) (by decide)

/-- RES1 of SLOT_GET as a number (R126). -/
theorem slotWord1_toNat (x : Slot) : (slotWord1 x).toNat = x.asmSize.toNat + 2 ^ 16 * x.asmCrc.toNat :=
  toNat_or_field_of_eq (k := 16) (toNat_setWidth_le x.asmSize (by decide)) x.asmCrc (by omega) (by decide)

/-- EV0 of an event as a number (R22, R151). -/
theorem ev0Word_toNat (e : Event) :
    (ev0Word e).toNat =
      (kindCode e.kind).toNat + 2 ^ 4 * e.slot.toNat + 2 ^ 8 * e.port.toNat + 2 ^ 11 * e.seq.toNat +
        2 ^ 16 * e.src.toNat := by
  have w0 := toNat_setWidth_le (w := 32) (kindCode e.kind) (by decide)
  have w4 := toNat_or_field_of_eq (k := 4) w0 e.slot (by omega) (by decide)
  have w8 := toNat_or_field_of_eq (k := 8) w4 e.port (by omega) (by decide)
  have w11 := toNat_or_field_of_eq (k := 11) w8 e.seq (by omega) (by decide)
  exact toNat_or_field_of_eq (k := 16) w11 e.src (by omega) (by decide)

/-- EV1 of an event as a number (R22, R151). -/
theorem ev1Word_toNat (e : Event) : (ev1Word e).toNat = e.value.toNat + 2 ^ 16 * e.flags.toNat :=
  toNat_or_field_of_eq (k := 16) (toNat_setWidth_le e.value (by decide)) e.flags (by omega) (by decide)

/-- Settles O36: the index check, then `slotWord0_toNat` and `slotWord1_toNat`. -/
theorem slotGet : Obligations.SlotGet := by
  unfold Obligations.SlotGet
  intro slot s x
  refine ⟨?_, fun h => if_pos ((badSlot_iff ..).mpr h), fun h => ?_⟩
  · exact toNat_formatFS_slotOnly ..
  · rw [← toNat_protoCode, ← slotWord0_toNat, ← slotWord1_toNat, BitVec.ofNat_toNat, BitVec.ofNat_toNat,
      BitVec.setWidth_eq, BitVec.setWidth_eq]
    exact if_neg (mt (badSlot_iff ..).mp (Nat.not_le.mpr h))

/-- Settles O38: the two cases of the FIFO, the head's words as numbers. -/
theorem evPop : Obligations.EvPop := by
  unfold Obligations.EvPop
  refine ⟨toNat_formatF0 .EV_POP, fun s => ⟨fun h => ?empty, fun e es h => ?head⟩⟩
  case empty =>
    show execEvPop s = _
    simp only [execEvPop, h]
    rfl
  case head =>
    rw [← ev0Word_toNat, ← ev1Word_toNat, BitVec.ofNat_toNat, BitVec.ofNat_toNat, BitVec.setWidth_eq, BitVec.setWidth_eq]
    show execEvPop s = _
    simp only [execEvPop, h]
    rfl

end Sys2Proof.Machine

/-! PROOFS. The dispatcher (R127 to R148): when it has a step, the frames it drops before routing, the slot a frame is
routed to, and the handlers of the connection frames. -/

namespace Sys2Proof.Machine

variable {s t : State} {f : Frame} {i : Nat}

/-! ### The turn, and the counting of R146 -/

theorem take_eq (f : Frame) (s : State) :
    take f s =
      { s with rxframes := s.rxframes + 1, rxbytes := s.rxbytes + BitVec.ofNat 32 f.dlc.toNat } := by
  rw [BitVec.ofNat_toNat]
  rfl

/-- No frame's processing looks at RXIN or writes it (R52). -/
theorem receive_rxin (f : Frame) (s : State) : (receive f s).rxin = s.rxin := by
  obtain hd | ⟨t, ht, -, he⟩ := receive_cases f s
  · rw [hd]; rfl
  · rw [he, ht]; rfl

theorem dispatcherEnabled_iff (s : State) :
    dispatcherEnabled s = true ↔ s.run = true ∧ s.rxin ≠ [] ∧ s.events.length < s.params.evqDepth := by
  simp only [dispatcherEnabled, Bool.and_eq_true, Bool.not_eq_true', List.isEmpty_eq_false_iff, decide_eq_true_eq,
    and_assoc]
  rfl

/-- Settles O44: a turn is the dispatcher's step where `dispatcherEnabled_iff` holds, and nothing otherwise. -/
theorem dispatcherEnabling : Obligations.DispatcherEnabling := by
  unfold Obligations.DispatcherEnabling
  refine ⟨fun s ts hag => step_turn hag, fun s hag => ?_, fun s hheld => ?_, fun s f fs hrun hin hroom => ?_⟩
  · rw [step, nextTurn, hag]
  · exact if_neg (mt (dispatcherEnabled_iff s).mp hheld)
  · have hen : dispatcherEnabled s = true := (dispatcherEnabled_iff s).mpr ⟨hrun, hin ▸ List.cons_ne_nil f fs, hroom⟩
    have hturn : dispatcherTurn s = receive f { s with rxin := fs } := by
      rw [dispatcherTurn, if_pos hen, dispatcherStep, hin]
    exact ⟨hturn, hturn ▸ receive_rxin ..⟩

/-- Settles O45: the two ends of `receive_cases`; the handler before `take` writes no counter. -/
theorem dropOrTake : Obligations.DropOrTake := by
  unfold Obligations.DropOrTake
  intro s f
  obtain hd | ⟨t, ht, -, he⟩ := receive_cases f s
  · rw [hd]
    exact ⟨.inl rfl, (BitVec.add_assoc ..).symm⟩
  · rw [he, take_eq, ht]
    refine ⟨.inr ⟨rfl, rfl, rfl⟩, ?_⟩
    show s.rxframes + 1 + s.rxdrop = s.rxframes + s.rxdrop + 1
    ac_rfl

/-! ### Frames dropped before routing (R129 to R131) -/

theorem notCannet_iff (f : Frame) :
    notCannet f = true ↔ f.ide = false ∨ f.rtr = true ∨ f.dlc.toNat = 0 ∨ 8 < f.dlc.toNat := by
  simp only [notCannet, Bool.or_eq_true, Bool.not_eq_true', decide_eq_true_eq, or_assoc]
  rfl

theorem notForMe_iff (s : State) (f : Frame) :
    notForMe s f = true ↔ frameDst f ≠ s.ownaddr ∧ frameDst f ≠ addrBcast := by
  simp [notForMe]

theorem malformed_iff (f : Frame) :
    malformed f = true ↔
      (frameType f = .first ∧ f.dlc.toNat < 5) ∨
        (frameType f = .stat ∧ flagResponse (frameFlags f) = true ∧ f.dlc.toNat < 4) := by
  simp only [malformed, Bool.or_eq_true, Bool.and_eq_true, decide_eq_true_eq, and_assoc]
  rfl

theorem flagResponse_iff (fl : Byte) : flagResponse fl = true ↔ fl.toNat / 2 % 2 = 1 := by
  rw [flagResponse, BitVec.getLsbD, Nat.testBit_succ, Nat.testBit_zero, decide_eq_true_eq]

theorem flagConnected_iff (fl : Byte) : flagConnected fl = true ↔ fl.toNat % 2 = 1 := by
  rw [flagConnected, BitVec.getLsbD, Nat.testBit_zero, decide_eq_true_eq]

theorem receive_unfit (h : notCannet f = true ∨ notForMe s f = true ∨ malformed f = true) : receive f s = drop s := by
  have hor : (notCannet f || notForMe s f || malformed f) = true := by rwa [Bool.or_eq_true, Bool.or_eq_true, or_assoc]
  exact if_pos hor

/-- Settles O46: each clause is a cause of `receive_unfit`, in numbers. -/
theorem framesDropped : Obligations.FramesDropped := by
  unfold Obligations.FramesDropped
  intro s f h
  refine receive_unfit ?_
  rw [notCannet_iff, notForMe_iff, malformed_iff]
  obtain h | h | h | h | ⟨hown, hbc⟩ | h | ⟨hty, h2, hfl, h4⟩ := h
  · exact .inl (.inl h)
  · exact .inl (.inr (.inl h))
  · exact .inl (.inr (.inr (.inl h)))
  · exact .inl (.inr (.inr (.inr h)))
  · rw [← toNat_idDst] at hown hbc
    exact .inr (.inl ⟨fun he => hown (congrArg BitVec.toNat he), fun he => hbc (congrArg BitVec.toNat he)⟩)
  · exact .inr (.inr (.inl h))
  · have hflags : frameFlags f = frameByte f 1 := if_pos h2
    exact .inr (.inr (.inr ⟨hty, by rwa [hflags, flagResponse_iff], h4⟩))

/-! ### Frames that reach their handler (R128) -/

theorem receive_of_handle_none (h : handle f s = none) : receive f s = drop s := by
  unfold receive
  split
  · rfl
  · rw [h]

/-- A frame for this node that is long enough for its type is taken as its handler leaves the state. -/
theorem ForMe.receive (hf : ForMe s f) (hm : ¬malformed f = true) (hh : handle f s = some t) :
    receive f s = take f t := by
  obtain ⟨hide, hrtr, hlo, hhi, hdst⟩ := hf
  have hc : ¬notCannet f = true := by
    rw [notCannet_iff, hide, hrtr]
    simp only [Bool.true_eq_false, Bool.false_eq_true, false_or]
    omega
  have hme : ¬notForMe s f = true := by
    rw [notForMe_iff]
    exact fun ⟨hown, hbc⟩ => hdst.elim hown hbc
  rw [Machine.receive, if_neg (by simp [hc, hme, hm]), hh]

theorem handle_first (h : frameType f = .first) : handle f s = handleFirst f s := by simp only [handle, h]
theorem handle_next (h : frameType f = .next) : handle f s = handleNext f s := by simp only [handle, h]
theorem handle_last (h : frameType f = .last) : handle f s = handleLast f s := by simp only [handle, h]
theorem handle_single (h : frameType f = .single) : handle f s = handleSingle f s := by simp only [handle, h]
theorem handle_connect (h : frameType f = .connect) : handle f s = handleConnect f s := by simp only [handle, h]
theorem handle_disconnect (h : frameType f = .disconnect) : handle f s = handleDisconnect f s := by
  simp only [handle, h]
theorem handle_stat (h : frameType f = .stat) : handle f s = handleStat f s := by simp only [handle, h]
theorem handle_ack (h : frameType f = .ack) : handle f s = handleAck f s := by simp only [handle, h]

/-! ### Routing (R132, R133) -/

/-- A lookup finds nothing where no slot is of its kind. -/
theorem lookup_eq_none {o : Option Nat} {p : Nat → Prop} (h : ∀ i, o = some i ↔ p i) (hp : ∀ i, ¬p i) : o = none :=
  Option.eq_none_iff_forall_ne_some.mpr fun i hi => hp i ((h i).mp hi)

section Routing

variable (h : Invariant s)
include h

theorem findPeer_eq_some_iff {r : Role} (hr : isPeered r = true) (i : Nat) :
    findPeer s (roleIs r) (framePort f) (frameSrc f) = some i ↔ PeerSlot s f r i := by
  refine ⟨fun hfind => ?_, fun ⟨hi, hrole, hport, hremote⟩ => ?_⟩
  · obtain ⟨hi, hrole, hport, hremote⟩ := findPeer_some hfind
    exact ⟨hi, of_decide_eq_true hrole, hport, hremote⟩
  · exact findPeer_eq h (fun q hq => by rwa [of_decide_eq_true hq]) hi (decide_eq_true hrole) hport hremote

theorem findPeered_eq_some_iff (i : Nat) :
    findPeer s isPeered (framePort f) (frameSrc f) = some i ↔
      PeerSlot s f .connecting i ∨ PeerSlot s f .connected i := by
  refine ⟨fun hfind => ?_, ?_⟩
  · obtain ⟨hi, hrole, hport, hremote⟩ := findPeer_some hfind
    exact ((isPeered_iff _).mp hrole).imp (fun hr => ⟨hi, hr, hport, hremote⟩) fun hr => ⟨hi, hr, hport, hremote⟩
  · rintro (⟨hi, hrole, hport, hremote⟩ | ⟨hi, hrole, hport, hremote⟩)
    · exact findPeer_eq h (fun _ hq => hq) hi (hrole ▸ rfl) hport hremote
    · exact findPeer_eq h (fun _ hq => hq) hi (hrole ▸ rfl) hport hremote

theorem findPort_eq_some_iff {r : Role} (hr : isListening r = true) (i : Nat) :
    findPort s r (framePort f) = some i ↔ PortSlot s f r i :=
  ⟨findPort_some, fun ⟨hi, hrole, hport⟩ => findPort_eq h hr hi hrole hport⟩

/-- The slot a data frame is routed to is the one R132 describes. -/
theorem routeData_eq_some_iff (f : Frame) (i : Nat) : routeData s f = some i ↔ DataSlot s f i := by
  refine ⟨fun hroute => ?_, fun hd => (routeData_of_dataSlot h hd).2⟩
  have hpeer := findPeer_eq_some_iff h (f := f) (r := .connected) rfl
  unfold routeData at hroute
  split at hroute
  · next j hj => exact .inl ((hpeer i).mp (hj.trans hroute))
  · next hnone =>
    refine .inr ⟨findPort_some hroute, fun j hj => ?_⟩
    exact nomatch hnone.symm.trans ((hpeer j).mpr hj)

end Routing

/-- The four types of frame that carry data (R132). -/
abbrev IsData (ty : FrameType) : Prop := ty = .first ∨ ty = .next ∨ ty = .last ∨ ty = .single

theorem handle_unrouted (hty : IsData (frameType f)) (hroute : routeData s f = none) : handle f s = none := by
  obtain hty | hty | hty | hty := hty
  · rw [handle_first hty, handleFirst, hroute]; rfl
  · rw [handle_next hty, handleNext, hroute]
  · rw [handle_last hty, handleLast, hroute]
  · rw [handle_single hty, handleSingle, hroute]; rfl

theorem receive_noDataSlot (h : Invariant s) (hty : IsData (frameType f)) (hno : ∀ j, ¬DataSlot s f j) :
    receive f s = drop s :=
  receive_of_handle_none (handle_unrouted hty (lookup_eq_none (routeData_eq_some_iff h f) hno))

/-- Settles O47 (`routeData` is a name of the model): `routeData_eq_some_iff`, and a lookup gives one slot. -/
theorem routeData_correct : Obligations.RouteData := by
  unfold Obligations.RouteData
  intro s f h
  have hiff := routeData_eq_some_iff h f
  exact ⟨hiff, fun i j hi hj => Option.some.inj (((hiff i).mpr hi).symm.trans ((hiff j).mpr hj)),
    receive_noDataSlot h⟩

/-! ### The connection handlers (R141 to R145) -/

/-- A 16-bit field as a number, the low byte first (R46). -/
theorem toNat_frameHalf (f : Frame) (k : Nat) :
    (frameHalf f k).toNat = (frameByte f k).toNat + 2 ^ 8 * (frameByte f (k + 1)).toNat := by
  have hlow := toNat_setWidth_le (w := 16) (frameByte f k) (by decide)
  rw [frameHalf, toNat_or_field _ _ 8 (by omega) (by decide), hlow]

theorem frameHalf_eq (f : Frame) (k : Nat) :
    frameHalf f k = BitVec.ofNat 16 ((frameByte f k).toNat + 2 ^ 8 * (frameByte f (k + 1)).toNat) := by
  rw [← toNat_frameHalf, BitVec.ofNat_toNat, BitVec.setWidth_eq]

/-- Only `first` and `stat` frames can be too short for their type (R131). -/
theorem not_malformed_of_type (h1 : frameType f ≠ .first) (h2 : frameType f ≠ .stat) : ¬malformed f = true := by
  rw [malformed_iff]
  exact fun h => h.elim (fun h => h1 h.1) fun h => h2 h.1

theorem handleConnect_response (hr : flagResponse (frameFlags f) = true) :
    handleConnect f s =
      (findPeer s (roleIs .connecting) (framePort f) (frameSrc f)).map fun i =>
        post (mkEvent f .connectResp i 0 (frameFlags f))
          (if flagConnected (frameFlags f) then setRole i .connected s else s) :=
  if_pos hr

theorem handleConnect_request (hr : ¬flagResponse (frameFlags f) = true) :
    handleConnect f s =
      (findPort s .listen (framePort f)).map fun i => post (mkEvent f .connectReq i 0 (frameFlags f)) s :=
  if_neg hr

/-- Settles O53: a response looks up the CONNECTING slot of port and source, a request the LISTEN slot of the port, each
unique by R34. -/
theorem handlerConnect : Obligations.HandlerConnect := by
  unfold Obligations.HandlerConnect
  intro s f h hf hty fl e response
  have hpeer := findPeer_eq_some_iff h (f := f) (r := .connecting) rfl
  have hport := findPort_eq_some_iff h (f := f) (r := .listen) rfl
  have hresp : flagResponse (frameFlags f) = true ↔ response := flagResponse_iff _
  rw [← hresp]
  have hm : ¬malformed f = true := not_malformed_of_type (by simp [hty]) (by simp [hty])
  refine ⟨fun hr hno => ?_, fun hr i hi => ?_, fun hr hno => ?_, fun hr i hi => ?_⟩
  · refine receive_of_handle_none ((handle_connect hty).trans ?_)
    rw [handleConnect_response hr, lookup_eq_none hpeer hno, Option.map_none]
  · have hh := (handle_connect (s := s) hty).trans (handleConnect_response hr)
    rw [(hpeer i).mpr hi, Option.map_some] at hh
    by_cases hc : flagConnected (frameFlags f) = true
    · rw [if_pos hc] at hh
      rw [hf.receive hm hh, take_eq, if_pos ((flagConnected_iff fl).mp hc)]
      rfl
    · rw [if_neg hc] at hh
      rw [hf.receive hm hh, take_eq, if_neg (mt (flagConnected_iff fl).mpr hc)]
      rfl
  · refine receive_of_handle_none ((handle_connect hty).trans ?_)
    rw [handleConnect_request hr, lookup_eq_none hport hno, Option.map_none]
  · have hh := (handle_connect (s := s) hty).trans (handleConnect_request hr)
    rw [(hport i).mpr hi, Option.map_some] at hh
    rw [hf.receive hm hh, take_eq]
    rfl

theorem setRole_abortAsm (h : Invariant s) (hi : i < s.params.nslot) (r : Role) :
    setRole i r (abortAsm i s) =
      { s with
        slots := s.slots.set i { slotAt s i with role := r, asmActive := false, asmErr := false }
        chains := s.chains.set (2 * i) { chainAt s (2 * i) with chunks := [] } } := by
  rw [setRole, slotAt_abortAsm_same h hi, setSlot_abortAsm]

/-- Settles O54: the CONNECTING or CONNECTED slot of port and source is looked up (`findPeered_eq_some_iff`), and
`setRole_abortAsm` is what the handler does to it. -/
theorem handlerDisconnect : Obligations.HandlerDisconnect := by
  unfold Obligations.HandlerDisconnect
  intro s f h hf hty
  have hpeer := findPeered_eq_some_iff h (f := f)
  have hm : ¬malformed f = true := not_malformed_of_type (by simp [hty]) (by simp [hty])
  refine ⟨fun hno => ?_, fun i hi => ?_⟩
  · refine receive_of_handle_none ((handle_disconnect hty).trans ?_)
    rw [handleDisconnect, lookup_eq_none hpeer hno, Option.map_none]
  · have hfind := (hpeer i).mpr hi
    have hh := handle_disconnect (s := s) hty
    rw [handleDisconnect, hfind, Option.map_some, setRole_abortAsm h (findPeer_some hfind).1] at hh
    rw [hf.receive hm hh, take_eq]
    rfl

/-- Settles O55: the CONNECTED slot of port and source is looked up; the event depends on the type and on RESPONSE. -/
theorem handlerStatAck : Obligations.HandlerStatAck := by
  unfold Obligations.HandlerStatAck
  intro s f h hf hty fl response took
  have hpeer := findPeer_eq_some_iff h (f := f) (r := .connected) rfl
  have hresp : flagResponse (frameFlags f) = true ↔ response := flagResponse_iff _
  rw [← hresp]
  refine ⟨fun hno => ?_, fun i hi => ?_⟩
  · refine receive_of_handle_none ?_
    obtain hty | hty := hty
    · rw [handle_stat hty, handleStat, lookup_eq_none hpeer hno, Option.map_none]
    · rw [handle_ack hty, handleAck, lookup_eq_none hpeer hno, Option.map_none]
  have hfind := (hpeer i).mpr hi
  refine ⟨fun hack => ?_, fun hstat hr => ?_, fun hstat hr h4 => ?_⟩
  · have hm : ¬malformed f = true := not_malformed_of_type (by simp [hack]) (by simp [hack])
    have hh := handle_ack (s := s) hack
    rw [handleAck, hfind, Option.map_some] at hh
    rw [hf.receive hm hh, take_eq]
    rfl
  all_goals
    have hh := handle_stat (s := s) hstat
    rw [handleStat, hfind, Option.map_some] at hh
  · have hm : ¬malformed f = true := by simp [malformed_iff, hstat, hr]
    rw [if_neg hr] at hh
    rw [hf.receive hm hh, take_eq]
    rfl
  · have hm : ¬malformed f = true := by
      rw [malformed_iff, hstat]
      simp only [reduceCtorEq, false_and, false_or]
      omega
    rw [if_pos hr] at hh
    rw [hf.receive hm hh, take_eq, frameHalf_eq]
    rfl

end Sys2Proof.Machine

/-! PROOFS. The data handlers (R135 to R140): append, what a failed and a completed transfer leave of the slot's two chains,
finish, and the frames `first`, `next`, `last` and `single`. -/

namespace Sys2Proof.Machine

variable {s t w m : State} {f : Frame} {i : Nat} {b : List Byte}

/-! ### append (R135) -/

theorem appendAsm_of_err (h : (slotAt s i).asmErr = true) : appendAsm i b s = s := if_pos h

theorem appendAsm_of_ok (h : (slotAt s i).asmErr = false) (hw : chainWrite (asmChain i) b s = .ok w) :
    appendAsm i b s = setSlot i { slotAt s i with asmCrc := crcFold (slotAt s i).asmCrc b } w := by
  have hslot : slotAt w i = slotAt s i := by rw [slotAt, (chainWrite_same hw).2.2, slotAt]
  rw [appendAsm, h, hw, ← hslot]
  rfl

theorem appendAsm_of_refused (h : (slotAt s i).asmErr = false) (hw : ∀ w, chainWrite (asmChain i) b s ≠ .ok w) :
    appendAsm i b s = setSlot i { slotAt s i with asmErr := true } s := by
  rw [appendAsm, h]
  cases hc : chainWrite (asmChain i) b s with
  | ok w => exact absurd hc (hw w)
  | full => rfl
  | nomem => rfl

/-- append writes no chain but the assembly chain (R135). -/
theorem chainAt_appendAsm_ne {c : Nat} (hc : c ≠ asmChain i) : chainAt (appendAsm i b s) c = chainAt s c := by
  by_cases herr : (slotAt s i).asmErr = true
  · rw [appendAsm_of_err herr]
  · replace herr := Bool.eq_false_iff.mpr herr
    by_cases hw : ∃ w, chainWrite (asmChain i) b s = .ok w
    · obtain ⟨w, hw⟩ := hw
      rw [appendAsm_of_ok herr hw, chainAt_setSlot]
      obtain ⟨-, ⟨-, rfl⟩ | ⟨-, rfl⟩⟩ := chainWrite_ok hw
      · rfl
      · exact chainAt_setChain_ne _ hc.symm
    · rw [appendAsm_of_refused herr (not_exists.mp hw), chainAt_setSlot]

/-- chain_write accepts exactly the bytes that fit MAXCAP and the pool (R104). -/
theorem chainWrite_ok_iff (h : Invariant s) {c : Nat} (hc : c < nchain s) :
    (∃ w, chainWrite c b s = .ok w) ↔
      totalSize s c + b.length ≤ (chainAt s c).maxcap.toNat ∧ need (chainAt s c).chunks b.length ≤ freeChunks s := by
  refine ⟨fun ⟨w, hw⟩ => ?_, fun ⟨hcap, hneed⟩ => ?_⟩
  · obtain ⟨-, -, -, -, hfree, -⟩ := chainWrite_effect h hc hw
    exact ⟨(chainWrite_ok hw).1, by omega⟩
  · obtain ⟨w, hw, -⟩ := chainWrite_accepted h hc (Nat.not_lt.mpr hcap) hneed
    exact ⟨w, hw⟩

/-- Settles O49: with ASM_ERR = 0 the answer of chain_write to the assembly chain decides, and it is OK exactly where the
bytes fit (`chainWrite_ok_iff`). -/
theorem append : Obligations.Append := by
  unfold Obligations.Append
  intro s i b h hi t fits
  have hwork : SlotWork i s t := .appendAsm i b s
  have hc : asmChain i < nchain s := asmChain_lt hi
  have hlen : i < s.slots.length := h.shaped.1 ▸ hi
  have hframe : t = { s with slots := t.slots, chains := t.chains } := by
    have honly : OnlyTable s t := onlyTable_appendAsm i b s
    rwa [OnlyTable, hwork.events] at honly
  refine ⟨hframe, hwork.slot, fun c => chainAt_appendAsm_ne, (sameTables_appendAsm i b s).1 _, appendAsm_of_err,
    fun herr hfits => ?stored, fun herr hfits => ?refused⟩
  case stored =>
    obtain ⟨w, hw⟩ := (chainWrite_ok_iff h hc).mpr hfits
    obtain ⟨hwframe, -, -, hbytes, hfree, -⟩ := chainWrite_effect h hc hw
    have ht : t = setSlot i { slotAt s i with asmCrc := crcFold (slotAt s i).asmCrc b } w := appendAsm_of_ok herr hw
    have hwlen : i < w.slots.length := (chainWrite_same hw).2.2 ▸ hlen
    rw [ht]
    exact ⟨hw.trans (congrArg ChainResult.ok hwframe), hfree, hbytes, slotAt_setSlot_same _ hwlen⟩
  case refused =>
    have ht : t = setSlot i { slotAt s i with asmErr := true } s :=
      appendAsm_of_refused herr (not_exists.mp (mt (chainWrite_ok_iff h hc).mp hfits))
    rw [ht]
    exact ⟨rfl, rfl, slotAt_setSlot_same _ hlen⟩

/-! ### The assembly abandoned (R122) -/

section Abort

variable (h : Invariant s) (hi : i < s.params.nslot)
include h hi

theorem chainAt_abortAsm_asm :
    chainAt (abortAsm i s) (asmChain i) = { chainAt s (asmChain i) with chunks := [] } :=
  chainAt_setChain_same (s := setSlot i _ s) _ (h.shaped.2 ▸ asmChain_lt hi)

/-- The assembly's chunks are back in the pool (R107, R122). -/
theorem freeChunks_abortAsm : freeChunks (abortAsm i s) = freeChunks s + (chainAt s (asmChain i)).chunks.length :=
  freeChunks_setChain h (asmChain_lt hi) { chainAt s (asmChain i) with chunks := [] }
    (Nat.le_trans h.pool (Nat.le_add_right ..))

end Abort

theorem chainAt_abortAsm_ne {c : Nat} (hc : c ≠ asmChain i) : chainAt (abortAsm i s) c = chainAt s c :=
  chainAt_setChain_ne (s := setSlot i _ s) _ hc.symm

/-! ### A transfer that failed (R136, R137) -/

/-- What a transfer that failed posts: XFER_FAIL, on a STREAM slot only. -/
def failEvents (f : Frame) (i : Nat) (proto : Proto) (value : Half) (reason : Byte) : List Event :=
  if proto = .stream then [mkEvent f .xferFail i value reason] else []

/-- The state after a transfer that failed: the assembly is abandoned, and the failure may be reported. -/
def failedTransfer (f : Frame) (i : Nat) (value : Half) (reason : Byte) (s : State) : State :=
  { abortAsm i s with events := s.events ++ failEvents f i (slotAt s i).proto value reason }

theorem transferFails_eq (f : Frame) (i : Nat) (value : Half) (reason : Byte) (s : State) :
    transferFails f i value reason s =
      { chainClear (asmChain i) s with
        events := s.events ++ failEvents f i (slotAt s i).proto value reason } := by
  unfold transferFails failEvents
  cases (slotAt s i).proto with
  | stream => rfl
  | dgram =>
    rw [if_neg nofun, List.append_nil]
    rfl

/-- Where finish reports a failure (R136). -/
theorem asmEnds_transferFails (f : Frame) (i : Nat) (value : Half) (reason : Byte) (s : State) :
    asmEnds i (transferFails f i value reason s) = failedTransfer f i value reason s := by
  rw [transferFails_eq]
  rfl

theorem setChain_setChain (c : Nat) (x y : Chain) (s : State) : setChain c y (setChain c x s) = setChain c y s := by
  simp only [setChain, List.set_set]

/-- Clearing a chain undoes what was put into it. -/
theorem chainClear_setChain {c : Nat} (hc : c < s.chains.length) (ks : List Chunk) :
    chainClear c (setChain c { chainAt s c with chunks := ks } s) = chainClear c s := by
  rw [chainClear, chainAt_setChain_same _ hc, setChain_setChain, chainClear]

/-- A transfer that fails after its data was written leaves what one leaves whose data was not. -/
theorem transferFails_chainWrite (hc : asmChain i < s.chains.length) (hw : chainWrite (asmChain i) b s = .ok w)
    (f : Frame) (value : Half) (reason : Byte) :
    transferFails f i value reason w = transferFails f i value reason s := by
  have hclear : chainClear (asmChain i) w = chainClear (asmChain i) s := by
    obtain ⟨-, ⟨-, rfl⟩ | ⟨-, rfl⟩⟩ := chainWrite_ok hw
    · rfl
    · exact chainClear_setChain hc _
  obtain ⟨-, hev, hslots⟩ := chainWrite_same hw
  rw [transferFails_eq, transferFails_eq, hclear, hev, slotAt, hslots, slotAt]

/-- Where `single` reports a failure (R137), the assembly was abandoned before. -/
theorem transferFails_abortAsm (hc : asmChain i < s.chains.length) (f : Frame) (value : Half) (reason : Byte) :
    transferFails f i value reason (abortAsm i s) = failedTransfer f i value reason s := by
  have hclear : chainClear (asmChain i) (abortAsm i s) = abortAsm i s :=
    chainClear_setChain (s := setSlot i { slotAt s i with asmActive := false, asmErr := false } s) hc []
  obtain ⟨hproto, -⟩ := (sameTables_abortAsm i s).2 i
  rw [transferFails_eq, hclear, hproto]
  rfl

/-! ### finish (R136) -/

/-- The bytes of slot `i`'s assembly chain, of which there are some, do not fit its ready chain (R106). -/
abbrev ReadyFull (s : State) (i : Nat) : Prop :=
  totalSize s (asmChain i) ≠ 0 ∧
    (chainAt s (readyChain i)).maxcap.toNat < totalSize s (readyChain i) + totalSize s (asmChain i)

/-- The reason finish reports, 0 where the transfer is good (R24, R136). -/
def finishReason (s : State) (i : Nat) : Nat :=
  if (slotAt s i).asmErr = true then 3
  else if totalSize s (asmChain i) ≠ (slotAt s i).asmSize.toNat then 1
  else if (slotAt s i).asmCrc ≠ (slotAt s i).asmCrcExp then 2
  else if ReadyFull s i then 3
  else 0

theorem chainMove_asm_full (h : ReadyFull s i) : chainMove (readyChain i) (asmChain i) s = .full :=
  chainMove_full (fun h0 => h.1 (by rw [totalSize, h0, chunksTotal_nil])) h.2

/-- A move to the slot's ready chain is accepted exactly where it does not pass MAXCAP (R106). -/
theorem chainMove_asm_ok_iff (h : Invariant s) (hi : i < s.params.nslot) :
    (∃ m, chainMove (readyChain i) (asmChain i) s = .ok m) ↔ ¬ReadyFull s i := by
  refine ⟨fun ⟨m, hm⟩ hfull => (nomatch hm.symm.trans (chainMove_asm_full hfull)), fun hroom => ?_⟩
  obtain ⟨m, hm, -⟩ := chainMove_accepted h (readyChain_lt hi) (asmChain_lt hi) (readyChain_ne_asmChain i i) hroom
  exact ⟨m, hm⟩

theorem finishReason_eq_zero_iff (s : State) (i : Nat) :
    finishReason s i = 0 ↔
      (slotAt s i).asmErr = false ∧ totalSize s (asmChain i) = (slotAt s i).asmSize.toNat ∧
        (slotAt s i).asmCrc = (slotAt s i).asmCrcExp ∧ ¬ReadyFull s i := by
  unfold finishReason
  by_cases herr : (slotAt s i).asmErr = true
  · simp [herr]
  by_cases hsize : totalSize s (asmChain i) = (slotAt s i).asmSize.toNat
  · by_cases hcrc : (slotAt s i).asmCrc = (slotAt s i).asmCrcExp
    · simp [herr, hsize, hcrc]
    · simp [herr, hsize, hcrc]
  · simp [herr, hsize]

/-- The model's checks in order, each against the same one of `finishReason` (R136). -/
theorem finishAsm_failed (f : Frame) (hr : finishReason s i ≠ 0) :
    finishAsm f i s = failedTransfer f i (slotAt s i).asmSize (BitVec.ofNat 8 (finishReason s i)) s := by
  unfold finishReason at hr ⊢
  unfold finishAsm
  dsimp only
  simp only [asmEnds_transferFails]
  by_cases herr : (slotAt s i).asmErr = true
  · simp only [if_pos herr]
    rfl
  simp only [if_neg herr] at hr ⊢
  by_cases hsize : totalSize s (asmChain i) ≠ (slotAt s i).asmSize.toNat
  · simp only [if_pos hsize]
    rfl
  simp only [if_neg hsize] at hr ⊢
  by_cases hcrc : (slotAt s i).asmCrc ≠ (slotAt s i).asmCrcExp
  · simp only [if_pos hcrc]
    rfl
  simp only [if_neg hcrc] at hr ⊢
  obtain ⟨hfull, -⟩ := ite_ne_right_iff.mp hr
  rw [if_pos hfull, chainMove_asm_full hfull]
  rfl

/-- With reason 0 the transfer is moved to the ready chain (R136). -/
theorem finishAsm_moved (h : Invariant s) (hi : i < s.params.nslot) (f : Frame) (hr : finishReason s i = 0) :
    ∃ m, chainMove (readyChain i) (asmChain i) s = .ok m ∧
      finishAsm f i s =
        asmEnds i (transferDone f i (slotAt s i).asmSeq (BitVec.ofNat 16 (totalSize s (asmChain i))) m) := by
  obtain ⟨herr, hsize, hcrc, hroom⟩ := (finishReason_eq_zero_iff s i).mp hr
  obtain ⟨m, hm⟩ := (chainMove_asm_ok_iff h hi).mpr hroom
  refine ⟨m, hm, ?_⟩
  unfold finishAsm
  dsimp only
  rw [if_neg (Bool.eq_false_iff.mp herr), if_neg (not_not.mpr hsize), if_neg (not_not.mpr hcrc), hm]

/-! ### A transfer that is delivered (R106, R136, R137) -/

/-- From `s` to `t` the bytes of slot `i`'s assembly chain went to its ready chain; both chains and the pool. -/
structure Moved (i : Nat) (s t : State) : Prop where
  asm : (chainAt t (asmChain i)).chunks = []
  ready : (chainAt t (readyChain i)).chunks = (chainAt s (readyChain i)).chunks ++ (chainAt s (asmChain i)).chunks
  bytes : chainBytes t (readyChain i) = chainBytes s (readyChain i) ++ chainBytes s (asmChain i)
  pool : freeChunks t = freeChunks s

theorem Moved.of_chainMove (h : Invariant s) (hi : i < s.params.nslot)
    (hm : chainMove (readyChain i) (asmChain i) s = .ok m) : Moved i s m := by
  have hroom := (chainMove_asm_ok_iff h hi).mp ⟨m, hm⟩
  obtain ⟨m', hm', -, -, -, -, hbytes, -, hfree, -, -, hready, hasm⟩ :=
    chainMove_accepted h (readyChain_lt hi) (asmChain_lt hi) (readyChain_ne_asmChain i i) hroom
  obtain rfl : m' = m := ChainResult.ok.inj (hm'.symm.trans hm)
  exact ⟨hasm, hready, hbytes, hfree⟩

theorem FrameEffect.slot_ne (h : FrameEffect f (some i) s t) {j : Nat} (hj : j ≠ i) : slotAt t j = slotAt s j :=
  h.slot j fun he => hj (Option.some.inj he).symm

theorem FrameEffect.chain_ne (h : FrameEffect f (some i) s t) {c : Nat} (hc : c / 2 ≠ i) :
    chainAt t c = chainAt s c :=
  h.chain c fun he => hc (Option.some.inj he).symm

theorem slotAt_transferDone (hlen : i < m.slots.length) (f : Frame) (seq : Seq) (value : Half) :
    slotAt (transferDone f i seq value m) i = { slotAt m i with rxSeq := seq } := by
  rw [transferDone, slotAt_post, slotAt_setSlot_same _ hlen]

/-- What finish leaves of a good transfer (R136). -/
theorem finishAsm_delivered (h : Invariant s) (hi : i < s.params.nslot) (f : Frame) (hr : finishReason s i = 0) :
    Moved i s (finishAsm f i s) ∧
      (finishAsm f i s).events =
        s.events ++ [mkEvent f .xferOk i (BitVec.ofNat 16 (totalSize s (asmChain i))) 0] ∧
      slotAt (finishAsm f i s) i =
        { slotAt s i with asmActive := false, asmErr := false, rxSeq := (slotAt s i).asmSeq } := by
  obtain ⟨m, hm, ht⟩ := finishAsm_moved h hi f hr
  obtain ⟨-, hev, hslots⟩ := chainMove_same hm
  have hlen : i < m.slots.length := hslots ▸ h.shaped.1 ▸ hi
  have hslot : slotAt m i = slotAt s i := by rw [slotAt, hslots, slotAt]
  rw [ht]
  refine ⟨{ Moved.of_chainMove h hi hm with }, congrArg (· ++ _) hev, ?_⟩
  rw [asmEnds, slotAt_setSlot_same _ (by simpa [transferDone] using hlen), slotAt_transferDone hlen, hslot]

/-- Settles O50: with reason 0 the transfer is delivered (`finishAsm_delivered`), and else what is left is
`failedTransfer` (`finishAsm_failed`). -/
theorem finish : Obligations.Finish := by
  unfold Obligations.Finish
  intro s f i h hi x size t reason e
  have heffect : FrameEffect f (some i) s t := (SlotWork.refl i s).finishAsm f
  have hdone (hr : reason = 0) := finishAsm_delivered h hi f hr
  have hfail (hr : reason ≠ 0) : t = failedTransfer f i x.asmSize (BitVec.ofNat 8 reason) s := finishAsm_failed f hr
  have hasm : (chainAt t (2 * i)).chunks = [] := by
    by_cases hr : reason = 0
    · exact (hdone hr).1.asm
    · rw [hfail hr]
      exact congrArg Chain.chunks (chainAt_abortAsm_asm h hi)
  refine ⟨onlyTable_finishAsm f i s, ?_, fun j => heffect.slot_ne, fun c h0 h1 => heffect.chain_ne (by omega),
    (sameTables_finishAsm f i s).1, hasm, fun hr => ?_, fun hr => ?_⟩
  · rw [chainBytes, hasm, chunksBytes_nil]
  · obtain ⟨hmoved, hev, hslot⟩ := hdone hr
    exact ⟨hmoved.ready, hmoved.pool, hmoved.bytes, hev, hslot⟩
  · rw [hfail hr]
    exact ⟨chainAt_abortAsm_ne (readyChain_ne_asmChain i i), freeChunks_abortAsm (s := s) h hi, rfl,
      slotAt_abortAsm_same h hi⟩

/-! ### Frames first, next and last (R138 to R140) -/

/-- The payload of a frame with DLC data bytes (R40, R128). -/
theorem framePayload_eq (hlen : f.data.length = f.dlc.toNat) (k : Nat) : framePayload f k = f.data.drop k := by
  rw [framePayload, frameLen, ← hlen, List.take_length]

theorem startAsm_abortAsm (h : Invariant s) (hi : i < s.params.nslot) (f : Frame) :
    startAsm f i (abortAsm i s) =
      { s with
        slots := s.slots.set i
          { slotAt s i with
            asmActive := true, asmErr := false, asmSeq := frameSeq f, asmSrc := frameSrc f, asmSize := frameHalf f 1,
            asmCrcExp := frameHalf f 3, asmCrc := crcSeed }
        chains := s.chains.set (2 * i) { chainAt s (2 * i) with chunks := [] } } := by
  rw [startAsm, slotAt_abortAsm_same h hi, setSlot_abortAsm]

/-- Settles O51: the frame is routed to its data slot, and `startAsm_abortAsm` is where append begins. -/
theorem handlerFirst : Obligations.HandlerFirst := by
  unfold Obligations.HandlerFirst
  refine ⟨fun s f h hty hno => receive_noDataSlot h (.inl hty) hno, fun s f i h hf hlen hty h5 hd => ?_⟩
  obtain ⟨hi, hroute⟩ := routeData_of_dataSlot h hd
  have hm : ¬malformed f = true := by
    rw [malformed_iff, hty]
    simp only [reduceCtorEq, false_and, or_false, true_and]
    omega
  have hh := handle_first (s := s) hty
  rw [handleFirst, hroute, Option.map_some, startAsm_abortAsm h hi, framePayload_eq hlen] at hh
  exact ⟨frameHalf f 1, frameHalf f 3, toNat_frameHalf f 1, toNat_frameHalf f 3, hf.receive hm hh⟩

theorem continues_iff (x : Slot) (f : Frame) :
    continues x f = true ↔ x.asmActive = true ∧ frameSeq f = x.asmSeq ∧ frameSrc f = x.asmSrc := by
  simp only [continues, Bool.and_eq_true, decide_eq_true_eq, and_assoc]

theorem handleNext_routed (hroute : routeData s f = some i) :
    handleNext f s = if continues (slotAt s i) f then some (appendAsm i (framePayload f 1) s) else none := by
  rw [handleNext, hroute]

theorem handleLast_routed (hroute : routeData s f = some i) :
    handleLast f s =
      if continues (slotAt s i) f then some (finishAsm f i (appendAsm i (framePayload f 1) s)) else none := by
  rw [handleLast, hroute]

/-- Settles O52: the frame is routed to its data slot, and `continues` decides whether it is taken. -/
theorem handlerNextLast : Obligations.HandlerNextLast := by
  unfold Obligations.HandlerNextLast
  refine ⟨fun s f h hty hno => receive_noDataSlot h (hty.elim (.inr ∘ .inl) (.inr ∘ .inr ∘ .inl)) hno,
    fun s f i h hf hlen hd => ?_⟩
  intro mine
  obtain ⟨-, hroute⟩ := routeData_of_dataSlot h hd
  have hmine : continues (slotAt s i) f = true ↔ mine := continues_iff _ f
  rw [← hmine]
  refine ⟨fun hty hstale => receive_of_handle_none ?_, fun hty hcont => ?_, fun hty hcont => ?_⟩
  · obtain hty | hty := hty
    · rw [handle_next hty, handleNext_routed hroute, if_neg hstale]
    · rw [handle_last hty, handleLast_routed hroute, if_neg hstale]
  · refine hf.receive (not_malformed_of_type (by simp [hty]) (by simp [hty])) ?_
    rw [handle_next hty, handleNext_routed hroute, if_pos hcont, framePayload_eq hlen]
  · refine hf.receive (not_malformed_of_type (by simp [hty]) (by simp [hty])) ?_
    rw [handle_last hty, handleLast_routed hroute, if_pos hcont, framePayload_eq hlen]

/-! ### Frame single (R137) -/

section Single

variable (hroute : routeData s f = some i)
include hroute

/-- The data passed through the assembly chain to the ready chain (R137). -/
theorem handleSingle_delivered (hw : chainWrite (asmChain i) (framePayload f 1) (abortAsm i s) = .ok w)
    (hm : chainMove (readyChain i) (asmChain i) w = .ok m) :
    handleSingle f s = some (transferDone f i (frameSeq f) (BitVec.ofNat 16 (frameLen f - 1)) m) := by
  simp only [handleSingle, hroute, Option.map_some, hw, hm]

/-- The data did not fit one of the two chains (R137). -/
theorem handleSingle_failed (hc : asmChain i < s.chains.length)
    (hno : ¬∃ w m, chainWrite (asmChain i) (framePayload f 1) (abortAsm i s) = .ok w ∧
      chainMove (readyChain i) (asmChain i) w = .ok m) :
    handleSingle f s = some (failedTransfer f i (BitVec.ofNat 16 (frameLen f - 1)) reasonFull s) := by
  have hfail := transferFails_abortAsm hc f (BitVec.ofNat 16 (frameLen f - 1)) reasonFull
  have hca : asmChain i < (abortAsm i s).chains.length := by
    rw [abortAsm_eq, List.length_set]
    exact hc
  simp only [handleSingle, hroute, Option.map_some]
  cases hw : chainWrite (asmChain i) (framePayload f 1) (abortAsm i s) with
  | full => exact congrArg some hfail
  | nomem => exact congrArg some hfail
  | ok w =>
    have hwfail := (transferFails_chainWrite hca hw f (BitVec.ofNat 16 (frameLen f - 1)) reasonFull).trans hfail
    cases hm : chainMove (readyChain i) (asmChain i) w with
    | ok m => exact absurd ⟨w, m, hw, hm⟩ hno
    | full => simp only [hm, hwfail]
    | nomem => simp only [hm, hwfail]

end Single

/-- The chunks that data of at most 32 bytes makes of an empty chain (R104). -/
def dataChunks (d : List Byte) : List Chunk := if d = [] then [] else [{ data := d, seek := 0 }]

theorem length_dataChunks (d : List Byte) : (dataChunks d).length = if d = [] then 0 else 1 := by
  unfold dataChunks
  split <;> rfl

theorem writeChunks_nil_left {d : List Byte} (hd : d.length ≤ 32) : writeChunks [] d = dataChunks d := by
  cases d with
  | nil => rfl
  | cons x d =>
    have htake : (x :: d).take chunkSize = x :: d := List.take_of_length_le hd
    have hdrop : (x :: d).drop chunkSize = [] := List.drop_eq_nil_of_le hd
    show newChunks (d.length + 1) (x :: d) = [{ data := x :: d, seek := 0 }]
    rw [newChunks, if_neg (by simp), htake, hdrop, newChunks_nil]

/-- From `s` to `w` slot `i`'s assembly was abandoned and `d` put into its assembly chain (R137). -/
structure Staged (i : Nat) (d : List Byte) (s w : State) : Prop where
  inv : Invariant w
  params : w.params = s.params
  slots : w.slots = (abortAsm i s).slots
  events : w.events = s.events
  ready : chainAt w (readyChain i) = chainAt s (readyChain i)
  chunks : (chainAt w (asmChain i)).chunks = dataChunks d
  bytes : chainBytes w (asmChain i) = d
  pool : freeChunks w + (dataChunks d).length = freeChunks s + (chainAt s (asmChain i)).chunks.length

section Stage

variable (h : Invariant s) (hi : i < s.params.nslot) {d : List Byte} (hd : d.length ≤ 32)
include h hi hd

theorem need_abortAsm : need (chainAt (abortAsm i s) (asmChain i)).chunks d.length = (dataChunks d).length := by
  rw [chainAt_abortAsm_asm h hi, ← writeChunks_nil_left hd, length_writeChunks, List.length_nil, Nat.zero_add]

/-- The emptied assembly chain takes the data as its only chunk, and the pool pays for it (R104, R107). -/
theorem Staged.of_chainWrite (hw : chainWrite (asmChain i) d (abortAsm i s) = .ok w) : Staged i d s w := by
  have ha : Invariant (abortAsm i s) := h.abortAsm hi
  have hc : asmChain i < nchain (abortAsm i s) := asmChain_lt hi
  have hempty := congrArg Chain.chunks (chainAt_abortAsm_asm h hi)
  obtain ⟨-, hother, -, hbytes, hfree, hchunks⟩ := chainWrite_effect ha hc hw
  obtain ⟨hparams, hev, hslots⟩ := chainWrite_same hw
  rw [need_abortAsm h hi hd, freeChunks_abortAsm h hi] at hfree
  exact
    { inv := ha.chainWrite hc hw
      params := hparams
      slots := hslots
      events := hev
      ready := (hother _ (readyChain_ne_asmChain i i)).trans (chainAt_abortAsm_ne (readyChain_ne_asmChain i i))
      chunks := by rw [hchunks, hempty, writeChunks_nil_left hd]
      bytes := by rw [hbytes, chainBytes, hempty, chunksBytes_nil, List.nil_append]
      pool := hfree }

/-- When a `single` is delivered (R104, R106, R137). -/
theorem single_delivered_iff :
    (∃ w m, chainWrite (asmChain i) d (abortAsm i s) = .ok w ∧ chainMove (readyChain i) (asmChain i) w = .ok m) ↔
      d.length ≤ (chainAt s (asmChain i)).maxcap.toNat ∧
        (d ≠ [] → 1 ≤ freeChunks s + (chainAt s (asmChain i)).chunks.length ∧
          totalSize s (readyChain i) + d.length ≤ (chainAt s (readyChain i)).maxcap.toNat) := by
  have hwrite := chainWrite_ok_iff (b := d) (h.abortAsm hi) (asmChain_lt (s := abortAsm i s) hi)
  have hzero : totalSize (abortAsm i s) (asmChain i) = 0 := by
    rw [totalSize, chainAt_abortAsm_asm h hi, chunksTotal_nil]
  rw [hzero, need_abortAsm h hi hd, freeChunks_abortAsm h hi, (sameTables_abortAsm i s).1, length_dataChunks,
    Nat.zero_add] at hwrite
  have hmove {w : State} (hw : chainWrite (asmChain i) d (abortAsm i s) = .ok w) :
      (∃ m, chainMove (readyChain i) (asmChain i) w = .ok m) ↔
        ¬(d ≠ [] ∧ (chainAt s (readyChain i)).maxcap.toNat < totalSize s (readyChain i) + d.length) := by
    have hst := Staged.of_chainWrite h hi hd hw
    rw [chainMove_asm_ok_iff hst.inv (hst.params ▸ hi), ReadyFull, ← chainBytes_length, hst.bytes, totalSize, hst.ready,
      totalSize, Ne, List.length_eq_zero_iff]
  constructor
  · rintro ⟨w, m, hw, hm⟩
    obtain ⟨hcap, hpool⟩ := hwrite.mp ⟨w, hw⟩
    have hroom := (hmove hw).mp ⟨m, hm⟩
    refine ⟨hcap, fun hne => ⟨by rwa [if_neg hne] at hpool, ?_⟩⟩
    exact Nat.not_lt.mp fun hlt => hroom ⟨hne, hlt⟩
  · rintro ⟨hcap, hfit⟩
    have hpool : (if d = [] then 0 else 1) ≤ freeChunks s + (chainAt s (asmChain i)).chunks.length := by
      split
      · exact Nat.zero_le _
      · next hne => exact (hfit hne).1
    obtain ⟨w, hw⟩ := hwrite.mpr ⟨hcap, hpool⟩
    obtain ⟨m, hm⟩ := (hmove hw).mpr fun ⟨hne, hlt⟩ => Nat.not_lt.mpr (hfit hne).2 hlt
    exact ⟨w, m, hw, hm⟩

end Stage

/-- What is left of a `single` whose data was staged and moved to the ready chain (R137). -/
theorem Staged.delivered {d : List Byte} (hst : Staged i d s w) (h : Invariant s) (hi : i < s.params.nslot)
    (hm : chainMove (readyChain i) (asmChain i) w = .ok m) (f : Frame) (value : Half) :
    (chainAt m (readyChain i)).chunks = (chainAt s (readyChain i)).chunks ++ dataChunks d ∧
      freeChunks m + (if d = [] then 0 else 1) = freeChunks s + (chainAt s (asmChain i)).chunks.length ∧
      chainBytes m (readyChain i) = chainBytes s (readyChain i) ++ d ∧ m.events = s.events ∧
      slotAt (transferDone f i (frameSeq f) value m) i =
        { slotAt s i with asmActive := false, asmErr := false, rxSeq := frameSeq f } := by
  have hmoved := Moved.of_chainMove hst.inv (hst.params ▸ hi) hm
  obtain ⟨-, hev, hslots⟩ := chainMove_same hm
  have hms : m.slots = (abortAsm i s).slots := hslots.trans hst.slots
  have hlen : i < m.slots.length := by rwa [hms, abortAsm_slots_length, h.shaped.1]
  refine ⟨by rw [hmoved.ready, hst.ready, hst.chunks], ?_, ?_, hev.trans hst.events, ?_⟩
  · rw [hmoved.pool, ← length_dataChunks, hst.pool]
  · rw [hmoved.bytes, hst.bytes, chainBytes, hst.ready, chainBytes]
  · rw [slotAt_transferDone hlen, slotAt, hms, ← slotAt, slotAt_abortAsm_same h hi]

/-- Settles O48: the frame is routed to its data slot; where its data fits (`single_delivered_iff`) it is staged in the
assembly chain and moved (`Staged`, `Moved`), and else what is left is `failedTransfer`. -/
theorem handlerSingle : Obligations.HandlerSingle := by
  unfold Obligations.HandlerSingle
  refine ⟨fun s f h hty hno => receive_noDataSlot h (.inr (.inr (.inr hty))) hno, fun s f i h hf hlen hty hds => ?_⟩
  intro d t free fits e
  obtain ⟨hi, hroute⟩ := routeData_of_dataSlot h hds
  have hpay : framePayload f 1 = d := framePayload_eq hlen 1
  have hd : d.length ≤ 32 := by
    obtain ⟨-, -, -, h8, -⟩ := hf
    rw [List.length_drop]
    omega
  have hlt : asmChain i < s.chains.length := h.shaped.2 ▸ asmChain_lt hi
  have hfits := single_delivered_iff h hi hd
  have htake {u : State} (hu : handleSingle f s = some u) : t = take f u :=
    hf.receive (not_malformed_of_type (by simp [hty]) (by simp [hty])) ((handle_single hty).trans hu)
  have hdone (hfit : fits) : ∃ w m, Staged i d s w ∧ chainMove (readyChain i) (asmChain i) w = .ok m ∧
      t = take f (transferDone f i (frameSeq f) (BitVec.ofNat 16 (f.dlc.toNat - 1)) m) := by
    obtain ⟨w, m, hw, hm⟩ := hfits.mpr hfit
    exact ⟨w, m, .of_chainWrite h hi hd hw, hm, htake (handleSingle_delivered hroute (hpay ▸ hw) hm)⟩
  have hfail (hfit : ¬fits) :
      t = take f (failedTransfer f i (BitVec.ofNat 16 (f.dlc.toNat - 1)) reasonFull s) :=
    htake (handleSingle_failed hroute hlt (hpay ▸ mt hfits.mp hfit))
  have heffect : FrameEffect f (some i) s t := by
    have hrouted : routedSlot s f = some i := by simp only [routedSlot, hty, hroute]
    exact hrouted ▸ receive_effect f s
  have hasm : (chainAt t (2 * i)).chunks = [] := by
    by_cases hfit : fits
    · obtain ⟨w, m, hst, hm, ht⟩ := hdone hfit
      rw [ht]
      exact (Moved.of_chainMove hst.inv (hst.params ▸ hi) hm).asm
    · rw [hfail hfit]
      exact congrArg Chain.chunks (chainAt_abortAsm_asm h hi)
  refine ⟨?frame, fun j hj => ?other, (sameTables_receive f s).1, ?bytes, hasm, fun hfit => ?delivered,
    fun hfit => ?failed⟩
  case frame =>
    obtain ⟨u, hu⟩ : ∃ u, handleSingle f s = some u := ⟨_, by rw [handleSingle, hroute, Option.map_some]⟩
    have honly : OnlyTable s u := onlyTable_handle ((handle_single hty).trans hu)
    rw [htake hu, take_eq, honly]
  case other =>
    exact ⟨heffect.slot_ne hj, heffect.chain_ne (by omega), heffect.chain_ne (by omega)⟩
  case bytes => rw [chainBytes, hasm, chunksBytes_nil]
  case delivered =>
    obtain ⟨w, m, hst, hm, ht⟩ := hdone hfit
    obtain ⟨hchunks, hpool, hbytes, hev, hslot⟩ := hst.delivered h hi hm f (BitVec.ofNat 16 (f.dlc.toNat - 1))
    rw [ht]
    exact ⟨hchunks, hpool, hbytes, congrArg (· ++ [e]) hev, hslot⟩
  case failed =>
    rw [hfail hfit]
    exact ⟨chainAt_abortAsm_ne (readyChain_ne_asmChain i i), freeChunks_abortAsm (s := s) h hi, rfl,
      slotAt_abortAsm_same h hi⟩

end Sys2Proof.Machine

/-! PROOFS. The interface commands (R156 to R159), and the environment's two steps: a frame offered and the RX device
error (R152, R154). -/

namespace Sys2Proof.Machine

variable {s : State}

/-! ### The interface commands -/

theorem execIfUp_badarg (h : s.arg0.toNat = 0 ∨ 0x3FFF ≤ s.arg0.toNat) :
    execIfUp s = .next (fail .badarg s) := by
  rw [execIfUp, if_pos ((badOwnAddr_iff _).mpr h)]

theorem execIfUp_up (hne : s.arg0.toNat ≠ 0) (hlt : s.arg0.toNat < 0x3FFF) :
    execIfUp s = .next (done { s with ownaddr := addrOf s.arg0, run := true, rxerr := false }) := by
  rw [execIfUp, if_neg (by rw [badOwnAddr_iff]; omega)]

/-- Settles O37: the words are format F0's numbers; IF_UP's two outcomes are split by `badOwnAddr_iff`, and each other
command is its definition. -/
theorem interfaceCommands : Obligations.InterfaceCommands := by
  unfold Obligations.InterfaceCommands
  refine ⟨toNat_formatF0 .NOP, toNat_formatF0 .IF_UP, toNat_formatF0 .IF_DOWN, toNat_formatF0 .CNT_CLEAR, fun s => ?_⟩
  exact ⟨rfl, execIfUp_badarg, fun hne hlt => ⟨addrOf s.arg0, toNat_addrOf_of_le hlt.le, execIfUp_up hne hlt⟩, rfl, rfl⟩

/-! ### The environment's steps -/

/-- A record of R40 stands for itself (log entry 7). -/
theorem record_eq_self {f : Frame} (h : f.data.length = min f.dlc.toNat 8) : Frame.record f = f := by
  rw [Frame.record, ← h, List.take_left]

theorem rxDeviceError_running (h : s.run = true) : rxDeviceError s = { s with rxerr := true, run := false } :=
  if_pos h

theorem dispatcherTurn_stopped (h : s.run = false) : dispatcherTurn s = s := by
  obtain he | ⟨f, fs, -, hrun, -⟩ := dispatcherTurn_cases s
  · exact he
  · exact absurd hrun (Bool.eq_false_iff.mp h)

/-- Settles O43: the step is the listed turn (`step_turn`), which is `rxDeviceError` or `offerFrame`; a stopped block's
dispatcher has no step (R127). -/
theorem environmentSteps : Obligations.EnvironmentSteps := by
  unfold Obligations.EnvironmentSteps
  refine ⟨fun s ts hrun hag => ?error, fun s f ts hf hag => ?offer, fun s => dispatcherTurn_stopped⟩
  case error => rw [step_turn hag, runTurn, rxDeviceError_running (s := { s with agenda := ts }) hrun]
  case offer => rw [step_turn hag, runTurn, offerFrame, record_eq_self hf]

end Sys2Proof.Machine

/-! PROOFS. How a command ends (R163 to R167): the commands that may end with each result code, the one inversion lemma for
`exec`, and from it what a failure leaves unchanged and which codes are possible. -/

namespace Sys2Proof.Machine

variable {s t : State} {m : Mnemonic}

/-- R165's table: the commands that may end with a failure code. BADCMD comes from decoding only. -/
def raisedBy : ErrCode → List Mnemonic
  | .ok | .badcmd => []
  | .badarg =>
    [.CRC_UPDATE, .BUF_INIT, .BUF_CLEAR, .BUF_READ, .BUF_WRITE, .BUF_MOVE, .BUF_ISFULL, .BUF_AVAIL, .BUF_SIZE, .SLOT_SET,
      .SLOT_FREE, .SLOT_GET, .IF_UP, .TX_SEND]
  | .busy => [.BUF_INIT, .BUF_CLEAR, .BUF_READ, .BUF_WRITE, .BUF_MOVE]
  | .full => [.BUF_WRITE, .BUF_MOVE]
  | .nomem => [.BUF_WRITE]
  | .portbusy => [.SLOT_SET]
  | .notup | .ioerr => [.TX_SEND]

/-- The ends of a command of row `m` run in `s` (R163, R167): `done` in some state, `fail` in `s` with a code of the row,
or `fail IOERR` once the environment's answer is used (log entry 3). The row's test is a Bool, so that it is checked by
evaluation whatever the command's operands are. -/
inductive Completes (m : Mnemonic) (s : State) : State → Prop
  | done (u : State) : Completes m s (done u)
  | fail {e : ErrCode} (hrow : (raisedBy e).contains m = true) : Completes m s (fail e s)
  | refused (hrow : (raisedBy .ioerr).contains m = true) : Completes m s (fail .ioerr (answerUsed s))

/-- Every command completes, with a code of its row: each failure its inversion lemma lists is in R165's table. -/
theorem exec_completes {i : Instr} (h : exec i s = .next t) : Completes i.mnemonic s t := by
  cases i with
  | nop | hdrPack | hdrUnpack | idPack | idUnpack | idMatch | crcInit | ifDown | cntClear => cases h; exact .done _
  | crcUpdate =>
    obtain rfl | ⟨-, rfl⟩ := execCrcUpdate_cases h
    exacts [.fail rfl, .done _]
  | bufInit =>
    obtain rfl | rfl | ⟨-, -, rfl⟩ := execBufInit_cases h
    exacts [.fail rfl, .fail rfl, .done _]
  | bufWrite =>
    obtain (rfl | rfl | rfl | rfl) | ⟨-, -, -, u, -, rfl⟩ := execBufWrite_cases h
    exacts [.fail rfl, .fail rfl, .fail rfl, .fail rfl, .done _]
  | bufRead =>
    obtain rfl | rfl | ⟨-, -, -, rfl⟩ := execBufRead_cases h
    exacts [.fail rfl, .fail rfl, .done _]
  | bufMove =>
    obtain (rfl | rfl | rfl) | ⟨-, -, -, -, -, u, -, rfl⟩ := execBufMove_cases h
    exacts [.fail rfl, .fail rfl, .fail rfl, .done _]
  | bufClear =>
    obtain rfl | rfl | ⟨-, -, rfl⟩ := execBufClear_cases h
    exacts [.fail rfl, .fail rfl, .done _]
  | bufIsfull =>
    obtain rfl | ⟨-, rfl⟩ := execBufIsfull_cases h
    exacts [.fail rfl, .done _]
  | bufAvail =>
    obtain rfl | ⟨-, rfl⟩ := execBufAvail_cases h
    exacts [.fail rfl, .done _]
  | bufSize =>
    obtain rfl | ⟨-, rfl⟩ := execBufSize_cases h
    exacts [.fail rfl, .done _]
  | slotSet =>
    obtain (rfl | rfl) | ⟨r, -, -, -, -, -, rfl⟩ := execSlotSet_cases h
    exacts [.fail rfl, .fail rfl, .done _]
  | slotFree =>
    obtain rfl | ⟨-, rfl⟩ := execSlotFree_cases h
    exacts [.fail rfl, .done _]
  | slotGet =>
    obtain rfl | ⟨-, rfl⟩ := execSlotGet_cases h
    exacts [.fail rfl, .done _]
  | ifUp =>
    obtain rfl | ⟨-, rfl⟩ := execIfUp_cases h
    exacts [.fail rfl, .done _]
  | txSend =>
    obtain (rfl | rfl) | ⟨-, -, -, ⟨-, rfl⟩ | ⟨-, rfl⟩⟩ := execTxSend_cases h
    exacts [.fail rfl, .fail rfl, .refused rfl, .done _]
  | evPop =>
    obtain ⟨-, rfl⟩ | ⟨e, es, -, rfl⟩ := execEvPop_cases h
    exacts [.done _, .done _]

/-- The code left in STATUS.ERR is OK or one whose row of R165's table holds the command. -/
theorem Completes.err (h : Completes m s t) : t.err = .ok ∨ m ∈ raisedBy t.err := by
  cases h with
  | done u => exact .inl rfl
  | fail hrow => exact .inr (List.contains_iff_mem.mp hrow)
  | refused hrow => exact .inr (List.contains_iff_mem.mp hrow)

/-- Settles O39: a command that does not end in `done` ends in `fail`, which writes STATUS.ERR only, in the state it
began in, or with the environment's answer used (`exec_completes`). -/
theorem failureChangesNothing : Obligations.FailureChangesNothing := by
  unfold Obligations.FailureChangesNothing
  intro i s t h herr
  cases exec_completes h with
  | done u => exact absurd rfl herr
  | fail hrow => exact ⟨rfl, fun _ => rfl⟩
  | refused hrow => exact ⟨rfl, fun hne => absurd rfl hne⟩

/-- Settles O40: the code is OK or a code that R165's table gives the command (`Completes.err`), row by row. -/
theorem possibleCodes : Obligations.PossibleCodes := by
  unfold Obligations.PossibleCodes
  intro i s t h
  obtain hok | hrow := (exec_completes h).err
  · exact .inl hok
  · generalize t.err = e at hrow
    cases e with
    | ok | badcmd => exact absurd hrow List.not_mem_nil
    | badarg | busy | full | nomem | portbusy | notup | ioerr => simpa [raisedBy] using hrow

end Sys2Proof.Machine

/-! PROOFS. The block's reset (R180, R181): what the reset step leaves as at power-on, and the power-on values that are
read through a register or an accessor. -/

namespace Sys2Proof.Machine

variable {s : State}

/-- The step in which the platform asserts reset (R180). -/
theorem step_blockReset {ts : List Turn} (hag : s.agenda = .blockReset :: ts) :
    step s = .next (resetBlock { s with agenda := ts }) := by
  rw [step, nextTurn, hag]
  rfl

theorem chainAt_powerOn (p : Params) (c : Nat) : chainAt (State.powerOn p) c = Chain.reset :=
  List.getElem?_getD_replicate_default_eq _ _ _

/-- Every chunk is free at power-on (R38). -/
theorem freeChunks_powerOn (p : Params) : freeChunks (State.powerOn p) = p.nchunk := by
  rw [freeChunks, usedChunks_powerOn, Nat.sub_zero]
  rfl

/-- STATUS reads 0 at power-on: every field is 0 (R181), EVFULL because EVQ_DEPTH is at least 1 (R6). -/
theorem statusWord_powerOn {p : Params} (hp : p.Legal) : statusWord (State.powerOn p) = 0 := by
  have ⟨_, _, ⟨hdepth, _⟩, _⟩ := hp
  have hfull : evFull (State.powerOn p) = false := decide_eq_false (Nat.ne_of_lt hdepth)
  apply BitVec.eq_of_toNat_eq
  rw [statusWord_toNat (invariant_powerOn hp), hfull]
  rfl

/-- IRQEN reads 0 at power-on (R181). -/
theorem irqenWord_powerOn (p : Params) : irqenWord (State.powerOn p) = 0 :=
  BitVec.eq_of_toNat_eq (irqenWord_toNat _)

/-- Settles O57: the reset step is `resetBlock`, which builds its state from power-on; the values of power-on are those
written in `State.powerOn`; STATUS, FREECHUNKS and IRQEN, computed from it, and the two tables, read by index, take a
lemma each. -/
theorem resetValues : Obligations.ResetValues := by
  unfold Obligations.ResetValues
  refine ⟨fun s ts hag => ⟨_, step_blockReset hag, rfl, rfl, rfl, rfl, rfl⟩, fun p hp => ?_⟩
  have hstatus : readWindow 0x014 (State.powerOn p) = 0 := statusWord_powerOn hp
  have hirqen : readWindow 0x040 (State.powerOn p) = 0 := irqenWord_powerOn p
  exact ⟨rfl, rfl, rfl, rfl, rfl, hstatus, rfl, rfl, rfl, rfl, rfl, rfl, rfl, rfl, freeChunks_powerOn p, hirqen, rfl, rfl,
    rfl, rfl, List.length_replicate, List.length_replicate, slotAt_powerOn p, chainAt_powerOn p⟩

end Sys2Proof.Machine
